-- ==== Sys2Proof/Word.lean ====
section
/-! DEFINITION. The bit-vector types of the block (00_scope.md R8, R10). -/

namespace Sys2Proof

/-- A byte, an unsigned 8-bit value (R10). -/
abbrev Byte := BitVec 8

/-- An event word, `EVT_W = 32` bits (R8, R61). -/
abbrev EventWord := BitVec 32

/-- A node number, `NODE_BITS = 5` bits (R8, R27). -/
abbrev Node := BitVec 5

/-- The four slot enables: bit 0 standard, bit 1 broadcast, bit 2 special, bit 3 any (R27). -/
abbrev Enables := BitVec 4

/-- A baud rate in bits per second, `BAUD_W = 24` bits (R8, R27, R28). -/
abbrev Baud := BitVec 24

end Sys2Proof
end

