-- ==== Sys2Proof/Machine/Elements.lean ====
section
/-! DEFINITION. The enumerated state elements with their codes (10_state.md R17, R18, R22, R25, R26), the output records
(30_encoding.md R64, R65) and the inputs of the port (10_state.md R34, R36). -/

namespace Sys2Proof.Machine

/-- `run` (R17). -/
inductive RunState where
  | stopped
  | running
deriving DecidableEq, Repr, Inhabited

/-- The STATUS code of `run` (R17). -/
def RunState.code : RunState → BitVec 1
  | .stopped => 0
  | .running => 1

/-- `rx_state` (R18). The value 3 is never held. -/
inductive RxState where
  | awaitStart
  | awaitLength
  | awaitBody
deriving DecidableEq, Repr, Inhabited

/-- The STATUS code of `rx_state` (R18). -/
def RxState.code : RxState → BitVec 2
  | .awaitStart => 0
  | .awaitLength => 1
  | .awaitBody => 2

/-- `tx_state` (R22). The value 3 is never held. -/
inductive TxState where
  | idle
  | responseWait
  | sending
deriving DecidableEq, Repr, Inhabited

/-- The STATUS code of `tx_state` (R22). -/
def TxState.code : TxState → BitVec 2
  | .idle => 0
  | .responseWait => 1
  | .sending => 2

/-- `last_result` (R25). The codes 6 and 7 are reserved and never written. -/
inductive LastResult where
  | none
  | ok
  | bccMismatch
  | lenReject
  | lineError
  | residTimeout
deriving DecidableEq, Repr, Inhabited

/-- The 3-bit code of `last_result` (R25). -/
def LastResult.code : LastResult → BitVec 3
  | .none => 0
  | .ok => 1
  | .bccMismatch => 2
  | .lenReject => 3
  | .lineError => 4
  | .residTimeout => 5

/-- `fault_cause` (R26, R109). -/
inductive FaultCause where
  | none
  | txBusy
  | configInvalid
  | illegalEvent
deriving DecidableEq, Repr, Inhabited

/-- The 2-bit code of `fault_cause` (R26). -/
def FaultCause.code : FaultCause → BitVec 2
  | .none => 0
  | .txBusy => 1
  | .configInvalid => 2
  | .illegalEvent => 3

/-- A telegram record (R65). -/
structure Telegram where
  stx : Byte
  lge : Byte
  adr : Byte
  payload : List Byte
  bcc : Byte
deriving DecidableEq, Repr

/-- The callback ports that carry telegram records (R35, R64). -/
inductive OutPort where
  | std
  | bcast
  | spec
  | any
deriving DecidableEq, Repr

/-- An output record (R64): a telegram on a callback port, or the bytes handed to the transmitter on TXP. Each
carries its data by value. -/
inductive OutRec where
  | tel (port : OutPort) (t : Telegram)
  | txStart (bytes : List Byte)
deriving DecidableEq, Repr

/-- What the environment can present to the block: an event word on the event port (R34, R61), or the separate reset
input `rst` (R36). -/
inductive PortInput where
  | word (w : EventWord)
  | rst
deriving DecidableEq, Repr

end Sys2Proof.Machine
end

