-- ==== Sys2Proof/Config.lean ====
section
/-! DEFINITION. The named constants and the OPEN parameters of 00_scope.md R8, and the free values of the model: opaque
constants with no body, for what the spec leaves unspecified (93_implementation_defined.md). -/

namespace Sys2Proof

/-- The OPEN parameters (R8; 92_eei_decisions.md D5, D8, D25). "The model takes the OPEN ones as arguments": they stand
in State and no step changes them (log 4). -/
structure Params where
  /-- `MAX_LGE`, the largest accepted LGE, 2..255. -/
  maxLge : Nat
  /-- `TICK_HZ`, the frequency of TICK events in Hz, at least 1. -/
  tickHz : Nat
  /-- `CNT_W`, the width in bits of the two timer counters, at least 1. -/
  cntW : Nat
deriving DecidableEq, Repr

/-- The ranges R8 gives the OPEN parameters. -/
abbrev Params.Wf (P : Params) : Prop :=
  2 ≤ P.maxLge ∧ P.maxLge ≤ 255 ∧ 1 ≤ P.tickHz ∧ 1 ≤ P.cntW

/-- `BUF_BYTES = MAX_LGE + 2` (R8, R42). -/
abbrev Params.bufBytes (P : Params) : Nat := P.maxLge + 2

namespace Config

/-- `STX_VALUE` (R8). -/
abbrev stxValue : Byte := 0x02
/-- `CHAR_BITS`: start, 8 data, parity, stop (R8). -/
abbrev charBits : Nat := 11
/-- `RESID_NUM` (R8): the factor 1.5 is the exact fraction 3/2. -/
abbrev residNum : Nat := 3
/-- `RESID_DEN` (R8). -/
abbrev residDen : Nat := 2
/-- `RESP_CHARS` (R8). -/
abbrev respChars : Nat := 2
/-- `MIN_LGE` (R8, D6). -/
abbrev minLge : Nat := 2
/-- `TIMER_GUARD` (R8, D9). -/
abbrev timerGuard : Nat := 1
/-- `ADR_SPECIAL` (R8). -/
abbrev adrSpecial : Byte := 0x80
/-- `ADR_MIRROR` (R8). -/
abbrev adrMirror : Byte := 0x40
/-- `ADR_BCAST` (R8). -/
abbrev adrBcast : Byte := 0x20
/-- `ADR_NODE_MASK` (R8). -/
abbrev adrNodeMask : Byte := 0x1F
/-- `ADR_CLASS_MASK` (R8). -/
abbrev adrClassMask : Byte := 0xE0

/-! The parameters of the machine `State.reset` describes: unknown values in the ranges of R8 (log 4). -/

/-- `MAX_LGE - 2`, any value 0..253. -/
opaque maxLgeAboveMin : Fin 254
/-- `TICK_HZ - 1`. -/
opaque tickHzPred : Nat
/-- `CNT_W - 1`. -/
opaque cntWPred : Nat

/-- The OPEN parameters of the block: implementation-defined (U1 to U3), so no value of them can be proved. -/
def params : Params :=
  { maxLge := maxLgeAboveMin.val + 2, tickHz := tickHzPred + 1, cntW := cntWPred + 1 }

/-- Parameter set A of R9, for vectors only: not a value of the hardware. -/
def setA : Params := { maxLge := 64, tickHz := 9600, cntW := 32 }

/-- Parameter set B of R9, for vectors only: not a value of the hardware. -/
def setB : Params := { maxLge := 64, tickHz := 1000, cntW := 32 }

/-! Free values. After `raise Fault` every element but `fault` and `fault_cause` is unspecified (R110, U9): one unknown
function for each, read with the counter of State (log 6). -/

opaque freeRun : Nat → Machine.RunState
opaque freeRxState : Nat → Machine.RxState
opaque freeBodyCount : Nat → BitVec 8
opaque freeResidArmed : Nat → Bool
opaque freeResidCnt : Nat → Nat
opaque freeTxState : Nat → Machine.TxState
opaque freeTxLen : Nat → BitVec 9
opaque freeRespCnt : Nat → Nat
opaque freeLastResult : Nat → Machine.LastResult
opaque freeCfgNode : Nat → Node
opaque freeCfgEn : Nat → Enables
opaque freeCfgBaud : Nat → Baud
opaque freeBaudStage : Nat → Baud

/-- `ceil_div(a, 0)`: R10 defines `ceil_div` for b >= 1 only (log 8). -/
opaque freeQuotient : Nat → Nat

end Config

end Sys2Proof
end

