-- ==== Sys2Proof/Syntax.lean ====
section
/-! DEFINITION. The instructions of the block: one constructor for each row of spec/opcode_table.json. The first eight
are the event words of 30_encoding.md R61 and R63, the last five the ADR classes of R59 and R60. -/

namespace Sys2Proof

/-- The kind of a line error (R61, R62): 0 framing, 1 parity, 2 overrun. -/
inductive LineErr where
  | framing
  | parity
  | overrun
deriving DecidableEq, Repr

/-- The instructions: event words (R61) and the ADR classes of a completed frame (R60). An ADR constructor carries every
bit of the ADR byte that its row leaves open. -/
inductive Instr where
  /-- RX_CHAR: a received character `d` (R71). -/
  | rx (d : Byte)
  /-- RX_ERR: a line error of kind `k` (R79). -/
  | err (k : LineErr)
  /-- TICK: one period of the timebase (R95). -/
  | tick
  /-- TX_DONE: the transmitter has finished (R100). -/
  | txdone
  /-- SET_BAUD: stage the baud `b` (R104). -/
  | baud (b : Baud)
  /-- START: node number `nd`, slot enables `en` (R105). -/
  | start (nd : Node) (en : Enables)
  /-- STOP (R106). -/
  | stop
  /-- Any word that no other row matches (R63, R107). -/
  | illegal (w : EventWord)
  /-- ADR with bit 7 set (R84); `low` is ADR[6:0], not examined. -/
  | adrSpecial (low : BitVec 7)
  /-- ADR[7:6] = 01 and ADR[4:0] equal to the node number (R85); `b5` is ADR[5], not examined. -/
  | adrMirror (b5 : Bool) (node : Node)
  /-- ADR[7] = 0, ADR[5] = 1 and no MIRROR (R86); `b6` is ADR[6]. -/
  | adrBroadcast (b6 : Bool) (node : Node)
  /-- ADR[7:5] = 000 and ADR[4:0] equal to the node number (R87). -/
  | adrStandard (node : Node)
  /-- ADR[7] = 0, ADR[5] = 0 and ADR[4:0] different from the node number (R88); `b6` is ADR[6]. -/
  | adrUnaddressed (b6 : Bool) (node : Node)
deriving DecidableEq, Repr

/-- The two encoding spaces: a 32-bit event word (R61), or the ADR byte of a frame (R59). -/
inductive Code where
  | event (w : EventWord)
  | adr (a : Byte)
deriving DecidableEq, Repr

/-- The five classes of a telegram (R14, R60). -/
inductive AdrClass where
  | special
  | mirror
  | broadcast
  | standard
  | unaddressed
deriving DecidableEq, Repr

end Sys2Proof
end

