-- ==== Sys2Proof/WellFormed.lean ====
section
/-! DEFINITION. Which instruction terms stand for a code: the event rows of the opcode table as masks and patterns
(30_encoding.md R61, R63), and the conditions R60 puts on the node field of an ADR class. -/

namespace Sys2Proof

/-- A row of the event map: a word belongs to it when its bits under `mask` are `pattern` (R61). -/
structure EventRow where
  mask : EventWord
  pattern : EventWord
deriving DecidableEq, Repr

/-- The seven legal rows of R61, in opcode order: RX_CHAR, RX_ERR, TICK, TX_DONE, SET_BAUD, START, STOP. -/
def eventRows : List EventRow :=
  [ { mask := 0xFFFFFF00, pattern := 0x10000000 },
    { mask := 0xFFFFFFFC, pattern := 0x20000000 },
    { mask := 0xFFFFFFFF, pattern := 0x30000000 },
    { mask := 0xFFFFFFFF, pattern := 0x40000000 },
    { mask := 0xFF000000, pattern := 0x50000000 },
    { mask := 0xFFFFF0E0, pattern := 0x60000000 },
    { mask := 0xFFFFFFFF, pattern := 0x70000000 } ]

/-- The word matches the row. -/
def EventRow.matchesWord (r : EventRow) (w : EventWord) : Bool := w &&& r.mask == r.pattern

/-- A word is legal when a row of R61 matches it and it is not RX_ERR with kind 3 (R63). -/
def legalWord (w : EventWord) : Bool := eventRows.any (·.matchesWord w) && w != 0x20000003

/-- Well-formed for a block whose node number is `N`: an ILLEGAL term holds an illegal word (R63), and an ADR term meets
the condition of its row of R60. The operands of the other rows are legal at every value. -/
def Instr.wellFormed (N : Node) : Instr → Bool
  | .rx _ => true
  | .err _ => true
  | .tick => true
  | .txdone => true
  | .baud _ => true
  | .start _ _ => true
  | .stop => true
  | .illegal w => !legalWord w
  | .adrSpecial _ => true
  | .adrMirror _ node => node == N
  | .adrBroadcast b6 node => !(b6 && node == N)
  | .adrStandard node => node == N
  | .adrUnaddressed _ node => node != N

end Sys2Proof
end

