-- ==== Sys2Proof/Decode.lean ====
section
/-! DEFINITION. Decoding and encoding (30_encoding.md sections 3 and 4). An event word decodes by its opcode and its zero
bits (R61 to R63): every word that is no legal event is ILLEGAL, under the reason of R63. An ADR byte decodes, for a node
number, to exactly one class (R59, R60, R82). -/

namespace Sys2Proof

/-- Why an event word is illegal: the cases (a), (b), (c) of R63. -/
inductive IllegalReason where
  | reservedOpcode
  | reservedBits
  | errKindThree
deriving DecidableEq, Repr

/-- `E[31:28]`, the opcode (R61). -/
def eventOpcode (w : EventWord) : BitVec 4 := w.extractLsb' 28 4

/-- The instruction of a word with a known opcode whose other bits are to be zero: ILLEGAL if they are not (R63b). -/
def whenZero (zeroBits : Bool) (w : EventWord) (i : Instr) : Instr :=
  if zeroBits then i else .illegal w

/-- The RX_ERR kind `k` (R62); 3 has none (R63c). -/
def lineErrOf (k : BitVec 2) : Option LineErr :=
  match k.toNat with
  | 0 => some .framing
  | 1 => some .parity
  | 2 => some .overrun
  | _ => none

/-- The event of a word (R61, R62, R63). -/
def decodeEvent (w : EventWord) : Instr :=
  match (eventOpcode w).toNat with
  | 1 => whenZero (w.extractLsb' 8 20 == 0) w (.rx (w.extractLsb' 0 8))
  | 2 =>
    match lineErrOf (w.extractLsb' 0 2) with
    | some k => whenZero (w.extractLsb' 2 26 == 0) w (.err k)
    | none => .illegal w
  | 3 => whenZero (w.extractLsb' 0 28 == 0) w .tick
  | 4 => whenZero (w.extractLsb' 0 28 == 0) w .txdone
  | 5 => whenZero (w.extractLsb' 24 4 == 0) w (.baud (w.extractLsb' 0 24))
  | 6 =>
    whenZero (w.extractLsb' 5 3 == 0 && w.extractLsb' 12 16 == 0) w
      (.start (w.extractLsb' 0 5) (w.extractLsb' 8 4))
  | 7 => whenZero (w.extractLsb' 0 28 == 0) w .stop
  | _ => .illegal w

/-- The name of the reason a word is refused for, `none` for a legal word (R63). -/
def illegalReason (w : EventWord) : Option IllegalReason :=
  match (eventOpcode w).toNat with
  | 1 => if w.extractLsb' 8 20 == 0 then none else some .reservedBits
  | 2 =>
    if w.extractLsb' 2 26 == 0 then
      (if w.extractLsb' 0 2 == 3 then some .errKindThree else none)
    else some .reservedBits
  | 3 => if w.extractLsb' 0 28 == 0 then none else some .reservedBits
  | 4 => if w.extractLsb' 0 28 == 0 then none else some .reservedBits
  | 5 => if w.extractLsb' 24 4 == 0 then none else some .reservedBits
  | 6 => if w.extractLsb' 5 3 == 0 && w.extractLsb' 12 16 == 0 then none else some .reservedBits
  | 7 => if w.extractLsb' 0 28 == 0 then none else some .reservedBits
  | _ => some .reservedOpcode

/-- `classify(adr, N)`, first match wins (R82). -/
def classify (adr : Byte) (N : Node) : AdrClass :=
  if adr &&& Config.adrSpecial ≠ 0 then .special
  else if adr &&& Config.adrMirror ≠ 0 ∧ adr &&& Config.adrNodeMask = N.setWidth 8 then .mirror
  else if adr &&& Config.adrBcast ≠ 0 then .broadcast
  else if adr &&& Config.adrClassMask = 0 ∧ adr &&& Config.adrNodeMask = N.setWidth 8 then .standard
  else .unaddressed

/-- The ADR instruction of an ADR byte in a block with node number `N` (R59, R60). -/
def decodeAdr (N : Node) (a : Byte) : Instr :=
  match classify a N with
  | .special => .adrSpecial (a.extractLsb' 0 7)
  | .mirror => .adrMirror (a.getLsbD 5) (a.extractLsb' 0 5)
  | .broadcast => .adrBroadcast (a.getLsbD 6) (a.extractLsb' 0 5)
  | .standard => .adrStandard (a.extractLsb' 0 5)
  | .unaddressed => .adrUnaddressed (a.getLsbD 6) (a.extractLsb' 0 5)

/-- The instruction of a code, for a block with node number `N`. Total: every code has one (R59, R63). -/
def decode (N : Node) : Code → Instr
  | .event w => decodeEvent w
  | .adr a => decodeAdr N a

/-! Encoding, from the same tables. -/

/-- The RX_ERR kind bits (R62). -/
def LineErr.bits : LineErr → BitVec 2
  | .framing => 0
  | .parity => 1
  | .overrun => 2

/-- The code of an instruction (R59, R61). -/
def encode : Instr → Code
  | .rx d => .event (0x1#4 ++ 0#20 ++ d)
  | .err k => .event (0x2#4 ++ 0#26 ++ k.bits)
  | .tick => .event (0x3#4 ++ 0#28)
  | .txdone => .event (0x4#4 ++ 0#28)
  | .baud b => .event (0x5#4 ++ 0#4 ++ b)
  | .start nd en => .event (0x6#4 ++ 0#16 ++ en ++ 0#3 ++ nd)
  | .stop => .event (0x7#4 ++ 0#28)
  | .illegal w => .event w
  | .adrSpecial low => .adr (1#1 ++ low)
  | .adrMirror b5 node => .adr (1#2 ++ BitVec.ofBool b5 ++ node)
  | .adrBroadcast b6 node => .adr (0#1 ++ BitVec.ofBool b6 ++ 1#1 ++ node)
  | .adrStandard node => .adr (0#3 ++ node)
  | .adrUnaddressed b6 node => .adr (0#1 ++ BitVec.ofBool b6 ++ 0#1 ++ node)

/-- The event word of an instruction; an ADR class has none. -/
def encodeEvent (i : Instr) : Option EventWord :=
  match encode i with
  | .event w => some w
  | .adr _ => none

/-- What the decoder reads from an instruction of the opcode table that is `nbits` wide with the bits `w`: rows of 8 bits
are ADR bytes, read with the node number 0 that `cfg_node` holds after reset (R40), and the others are event words. An
event word is delivered whole (R46), so no byte order enters. No code is wider than 32 bits. -/
def decodeTableWord (nbits w : Nat) : Option Instr :=
  if nbits = 8 then some (decodeAdr 0 (BitVec.ofNat 8 w))
  else if nbits ≤ 32 then some (decodeEvent (BitVec.ofNat 32 w))
  else none

end Sys2Proof
end

