-- ==== Sys2Proof/Machine/Memory.lean ====
section
/-! DEFINITION. A frame buffer as a byte memory (20_memory.md R41, R47): a list of (index, byte) pairs in one canonical
form, indices strictly rising. An unlisted index holds no value: the contents after reset are unspecified (R40), and a
read of a byte nothing has written is refused by the operations of Machine/Ops.lean (log 5). -/

namespace Sys2Proof.Machine

/-- A frame buffer's contents. -/
abbrev Memory := List Host.Cell

/-- The indices rise strictly. -/
def Memory.rising : Memory → Bool
  | [] => true
  | c :: m => m.all (fun c' => c.1 < c'.1) && Memory.rising m

/-- The canonical form of a buffer of `size` bytes: indices strictly rising and below `size` (R41). -/
def Memory.wf (size : Nat) (m : Memory) : Bool := Memory.rising m && m.all (fun c => c.1 < size)

/-- The byte at index `i`, none where nothing has been written. -/
def Memory.read (m : Memory) (i : Nat) : Option Byte :=
  match m with
  | [] => none
  | c :: m' => if c.1 = i then some c.2 else Memory.read m' i

/-- Write one byte, keeping the form. -/
def Memory.write (m : Memory) (i : Nat) (v : Byte) : Memory :=
  match m with
  | [] => [(i, v)]
  | c :: m' =>
    if i < c.1 then (i, v) :: c :: m'
    else if c.1 = i then (i, v) :: m'
    else c :: Memory.write m' i v

/-- The `n` bytes from index `a` on, `[a .. a+n-1]` of R12, none where one of them has not been written. -/
def Memory.readRange (m : Memory) (a : Nat) : Nat → Option (List Byte)
  | 0 => some []
  | n + 1 =>
    match Memory.read m a, Memory.readRange m (a + 1) n with
    | some b, some bs => some (b :: bs)
    | _, _ => none

/-- Write the bytes from index `a` on, in index order. -/
def Memory.writeRange (m : Memory) (a : Nat) : List Byte → Memory
  | [] => m
  | b :: bs => Memory.writeRange (Memory.write m a b) (a + 1) bs

end Sys2Proof.Machine
end

