-- ==== Sys2Proof/Machine/State.lean ====
section
/-! DEFINITION. The state of the block (10_state.md sections 2 and 7), the reasons a step of the model can stop, and the
reset state (R40, R120). -/

namespace Sys2Proof.Machine

/-- The state: the elements of 10_state.md section 2, then the model's own fields. -/
structure State where
  /-- `run` (R17). -/
  run : RunState
  /-- `rx_state` (R18). -/
  rxState : RxState
  /-- `RXB`, the receive frame buffer (R19, R41). -/
  rxb : Memory
  /-- `body_count`, 8 bits (R20). -/
  bodyCount : BitVec 8
  /-- `resid_armed` (R21). -/
  residArmed : Bool
  /-- `resid_cnt`, `CNT_W` bits (R21), reduced modulo `2^CNT_W` at each write (log 7). -/
  residCnt : Nat
  /-- `tx_state` (R22). -/
  txState : TxState
  /-- `TXB`, the transmit frame buffer (R23, R41). -/
  txb : Memory
  /-- `tx_len`, 9 bits (R23). -/
  txLen : BitVec 9
  /-- `resp_cnt`, `CNT_W` bits (R24), as `residCnt`. -/
  respCnt : Nat
  /-- `last_result` (R25). -/
  lastResult : LastResult
  /-- `fault` (R26). -/
  fault : Bool
  /-- `fault_cause` (R26). -/
  faultCause : FaultCause
  /-- `cfg_node` (R27). -/
  cfgNode : Node
  /-- `cfg_en` (R27). -/
  cfgEn : Enables
  /-- `cfg_baud` (R27). -/
  cfgBaud : Baud
  /-- `baud_stage` (R28). -/
  baudStage : Baud
  /-- MODEL: the OPEN parameters (R8, log 4). -/
  params : Params
  /-- MODEL: the inputs presented at the port and not yet taken, next first (R7, R34, log 1). -/
  port : List PortInput
  /-- MODEL: "the output trace of the current step" (R11), or of the last one between steps (log 3). -/
  out : List OutRec
  /-- MODEL: the records of the earlier steps, oldest first (R7, log 3). -/
  trace : List OutRec
  /-- MODEL: how many times free values have been drawn (log 6). -/
  freeCtr : Nat
deriving DecidableEq, Repr

/-- Why the MODEL stops: never a fault of the block, whose faults are next states with `fault = true` (R110). -/
inductive Fault where
  /-- A rule reads a frame buffer byte that nothing has written since reset or a fault. Raised by the buffer reads of
  Machine/Ops.lean. R40: "No rule reads an RXB byte before an RX_CHAR of the current frame has written it", so no run
  from reset gets here. Safe: the model stops where the spec gives no value (log 5). -/
  | unwrittenByte
  /-- A rule reads or writes a frame buffer at `BUF_BYTES` or above, where no byte exists (R41). Raised by the buffer
  accesses of Machine/Ops.lean. R42: "no rule writes outside a buffer", so no run from reset gets here. Safe (log 13). -/
  | outsideBuffer
deriving DecidableEq, Repr

/-- Why the model has no meaning for an instruction. -/
inductive Refusal where
  /-- No meaning yet: raised by an arm of `exec` alone. Safe. No arm uses it. -/
  | notModelled (mnemonic : String)
deriving DecidableEq, Repr

/-- What a step of the model answers. -/
abbrev Result := Host.Outcome State Fault Refusal

/-- The reset value of every element (R40, R120), for a block with the parameters `P`. The buffers hold nothing. -/
def State.resetOf (P : Params) : State :=
  { run := .stopped
    rxState := .awaitStart
    rxb := []
    bodyCount := 0
    residArmed := false
    residCnt := 0
    txState := .idle
    txb := []
    txLen := 0
    respCnt := 0
    lastResult := .none
    fault := false
    faultCause := .none
    cfgNode := 0
    cfgEn := 0
    cfgBaud := 0
    baudStage := 0
    params := P
    port := []
    out := []
    trace := []
    freeCtr := 0 }

/-- The machine right after reset (R40, R120), its parameters unknown values in their ranges (R8, log 4). -/
def State.reset : State := State.resetOf Config.params

end Sys2Proof.Machine
end

