-- ==== Sys2Proof/Machine/Ops.lean ====
section
/-! DEFINITION. The primitives of 00_scope.md R11 as named operations: sequencing, buffer accesses, `emit`, and
`raise Fault` with the reset input that alone leaves the faulted state (60_exceptions.md R110, 10_state.md R36). -/

namespace Sys2Proof.Machine

/-- Run `f` after `r`, unless `r` raised a fault: "ends the current step at once" (R11). A procedure starts with
`fault = false`, so a true `fault` after it is one it raised. -/
def seqThen (r : Result) (f : State → Result) : Result :=
  match r with
  | .next s => if s.fault then .next s else f s
  | .fault e => .fault e
  | .refused e => .refused e

/-- Go on with a value that was read, or stop with the reason the read gave. -/
def withOk {α : Type} (v : Except Fault α) (f : α → Result) : Result :=
  match v with
  | .ok a => f a
  | .error e => .fault e

/-- `if fault: return`, the first test of every rule (R110, R112c). -/
def unlessFaulted (s : State) (body : State → Result) : Result :=
  if s.fault then .next s else body s

/-! Buffer accesses (R41, R48). -/

/-- One byte of a buffer of `size` bytes. -/
def bufByte (size : Nat) (m : Memory) (i : Nat) : Except Fault Byte :=
  if size ≤ i then .error .outsideBuffer
  else
    match Memory.read m i with
    | some b => .ok b
    | none => .error .unwrittenByte

/-- The `n` bytes from index `a` on (R12). -/
def bufRange (size : Nat) (m : Memory) (a n : Nat) : Except Fault (List Byte) :=
  match n with
  | 0 => .ok []
  | k + 1 =>
    match bufByte size m a with
    | .error e => .error e
    | .ok b =>
      match bufRange size m (a + 1) k with
      | .error e => .error e
      | .ok bs => .ok (b :: bs)

/-- `MemRead(RXB:i, 1)` (R11). -/
def rxbByte (s : State) (i : Nat) : Except Fault Byte := bufByte s.params.bufBytes s.rxb i

/-- The `n` bytes `RXB[a .. a+n-1]` (R12). -/
def rxbRange (s : State) (a n : Nat) : Except Fault (List Byte) := bufRange s.params.bufBytes s.rxb a n

/-- The `n` bytes `TXB[a .. a+n-1]` (R12). -/
def txbRange (s : State) (a n : Nat) : Except Fault (List Byte) := bufRange s.params.bufBytes s.txb a n

/-- `MemWrite(RXB:i, 1, v)` (R11). -/
def writeRxb (s : State) (i : Nat) (v : Byte) : Except Fault State :=
  if s.params.bufBytes ≤ i then .error .outsideBuffer
  else .ok { s with rxb := Memory.write s.rxb i v }

/-- `MemWrite(TXB:i, 1, v)` (R11). -/
def writeTxb (s : State) (i : Nat) (v : Byte) : Except Fault State :=
  if s.params.bufBytes ≤ i then .error .outsideBuffer
  else .ok { s with txb := Memory.write s.txb i v }

/-- Write the bytes to TXB from index `i` on, in index order (the loop of R85). -/
def writeTxbRange (s : State) (i : Nat) : List Byte → Except Fault State
  | [] => .ok s
  | b :: bs =>
    match writeTxb s i b with
    | .error e => .error e
    | .ok s' => writeTxbRange s' (i + 1) bs

/-- `emit O` (R11). -/
def emit (o : OutRec) (s : State) : State := { s with out := s.out ++ [o] }

/-- `x <- v` for a timer counter of `CNT_W` bits (R21, R24). -/
def toCnt (P : Params) (v : Nat) : Nat := v % 2 ^ P.cntW

/-- `x - 1` in a counter of `CNT_W` bits (R96, R97). R94 shows that it never wraps in a run from reset. -/
def decCnt (P : Params) (v : Nat) : Nat := toCnt P (v + (2 ^ P.cntW - 1))

/-! Taking a fault, and the way out. -/

/-- `raise Fault(c)` (R110): records the fault and its cause and discards the records of this step. Every other element
is unspecified (R110, U9): the scalar ones get free values, the buffers lose their contents (log 6). The inputs at the
port, the records of earlier steps and the parameters are no elements of the block. -/
def raiseFault (c : FaultCause) (s : State) : State :=
  { run := Config.freeRun s.freeCtr
    rxState := Config.freeRxState s.freeCtr
    rxb := []
    bodyCount := Config.freeBodyCount s.freeCtr
    residArmed := Config.freeResidArmed s.freeCtr
    residCnt := toCnt s.params (Config.freeResidCnt s.freeCtr)
    txState := Config.freeTxState s.freeCtr
    txb := []
    txLen := Config.freeTxLen s.freeCtr
    respCnt := toCnt s.params (Config.freeRespCnt s.freeCtr)
    lastResult := Config.freeLastResult s.freeCtr
    fault := true
    faultCause := c
    cfgNode := Config.freeCfgNode s.freeCtr
    cfgEn := Config.freeCfgEn s.freeCtr
    cfgBaud := Config.freeCfgBaud s.freeCtr
    baudStage := Config.freeBaudStage s.freeCtr
    params := s.params
    port := s.port
    out := []
    trace := s.trace
    freeCtr := s.freeCtr + 1 }

/-- The reset input `rst` (R36, R120): every element takes its reset value, also in the faulted state, and no record is
emitted. The inputs that wait behind it and the records already emitted belong to the environment (log 2, log 3). -/
def assertReset (rest : List PortInput) (s : State) : State :=
  { State.resetOf s.params with
    port := rest
    trace := s.trace ++ s.out
    freeCtr := s.freeCtr }

/-- The start of a step: the event word leaves the port, and the records of the step before join the trace (R7). -/
def beginStep (rest : List PortInput) (s : State) : State :=
  { s with port := rest, trace := s.trace ++ s.out, out := [] }

/-- What the next step takes from the port. -/
inductive Taken where
  | nothing
  | rst (rest : List PortInput)
  | word (w : EventWord) (rest : List PortInput)
deriving DecidableEq, Repr

/-- The port delivers its inputs in order, one for each step (R7, R34). -/
def takeInput (s : State) : Taken :=
  match s.port with
  | [] => .nothing
  | .rst :: rest => .rst rest
  | .word w :: rest => .word w rest

/-- Present an event word as the next input. -/
def presentWord (w : EventWord) (s : State) : State := { s with port := .word w :: s.port }

end Sys2Proof.Machine
end

