-- ==== Sys2Proof/Machine/Operands.lean ====
section
/-! DEFINITION. The operands the rules compute from the state: the BCC (30_encoding.md R58), the telegram of RXB (R65),
and the timer loads (42_timers_transmit.md R92). -/

namespace Sys2Proof.Machine

/-- The XOR of a byte sequence (R58). -/
def xorBytes : List Byte → Byte
  | [] => 0
  | b :: bs => b ^^^ xorBytes bs

/-- `bcc_of(RXB, lge)`: the XOR of RXB[0..lge] (R58). -/
def bccOf (s : State) (lge : Nat) : Except Fault Byte :=
  match rxbRange s 0 (lge + 1) with
  | .ok bs => .ok (xorBytes bs)
  | .error e => .error e

/-- `tel_of(RXB, lge)` (R65): the payload is RXB[3..lge], `lge - 2` bytes. -/
def telOf (s : State) (lge : Nat) : Except Fault Telegram :=
  match rxbByte s 0, rxbByte s 1, rxbByte s 2, rxbRange s 3 (lge - 2), rxbByte s (lge + 1) with
  | .ok stx, .ok l, .ok adr, .ok payload, .ok bcc =>
    .ok { stx := stx, lge := l, adr := adr, payload := payload, bcc := bcc }
  | .error e, _, _, _, _ => .error e
  | _, .error e, _, _, _ => .error e
  | _, _, .error e, _, _ => .error e
  | _, _, _, .error e, _ => .error e
  | _, _, _, _, .error e => .error e

/-- `ceil_div(a, b)` (R10), for b >= 1; the quotient by 0 is a free value (log 8). -/
def ceilDiv (a b : Nat) : Nat :=
  if b = 0 then Config.freeQuotient a else (a + b - 1) / b

/-- `resid_load_B(B, lge)` (R92, R105). -/
def residLoadAt (P : Params) (B : Baud) (lge : Nat) : Nat :=
  ceilDiv (Config.residNum * lge * Config.charBits * P.tickHz) (Config.residDen * B.toNat) + Config.timerGuard

/-- `resid_load(lge)`, from `cfg_baud` (R92). -/
def residLoad (s : State) (lge : Nat) : Nat := residLoadAt s.params s.cfgBaud lge

/-- `resp_load` at the baud B (R92). -/
def respLoadAt (P : Params) (B : Baud) : Nat :=
  ceilDiv (Config.respChars * Config.charBits * P.tickHz) B.toNat + Config.timerGuard

/-- `resp_load`, from `cfg_baud` (R92). -/
def respLoad (s : State) : Nat := respLoadAt s.params s.cfgBaud

end Sys2Proof.Machine
end

