-- ==== Sys2Proof/Machine/Transmit.lean ====
section
/-! DEFINITION. The transmit scheduler (42_timers_transmit.md section 3): `schedule`, `tx_start`, and TX_DONE. -/

namespace Sys2Proof.Machine

/-- `schedule()` (R98). -/
def schedule (s : State) : State :=
  { s with respCnt := toCnt s.params (respLoad s), txState := .responseWait }

/-- `tx_start()` (R99). -/
def txStart (s : State) : Result :=
  withOk (txbRange s 0 s.txLen.toNat) fun bytes =>
    .next { emit (.txStart bytes) s with txState := .sending }

/-- TX_DONE (R100). -/
def execTxdone (s : State) : Result :=
  unlessFaulted s fun s =>
    if s.txState = .sending then .next { s with txState := .idle } else .next s

end Sys2Proof.Machine
end

