-- ==== Sys2Proof/Machine/Dispatcher.lean ====
section
/-! DEFINITION. The checksum validator and the dispatcher (41_checksum_dispatch.md): the BCC check, the five class
actions, each the meaning of its ADR row, and the `any` action. The class actions run on the frame in RXB, in the step of
its last body byte (log 10). -/

namespace Sys2Proof.Machine

/-- The comparison of `check_bcc(lge)` (R80). -/
def bccMatches (s : State) (lge : Nat) : Except Fault Bool :=
  match bccOf s lge, rxbByte s (lge + 1) with
  | .ok acc, .ok bcc => .ok (acc == bcc)
  | .error e, _ => .error e
  | _, .error e => .error e

/-- Emit the telegram of RXB on a port whose enable bit is set (R84, R86, R87, R89). -/
def emitIfEnabled (slot : Nat) (port : OutPort) (s : State) : Result :=
  withOk (rxbByte s 1) fun lge =>
    withOk (telOf s lge.toNat) fun t =>
      if s.cfgEn.getLsbD slot then .next (emit (.tel port t) s) else .next s

/-- `act_mirror(lge)` (R85): a fault unless the transmitter is idle, else the copy to TXB and `schedule()`. -/
def mirrorFrame (s : State) : Result :=
  if s.txState ≠ .idle then .next (raiseFault .txBusy s)
  else
    withOk (rxbByte s 1) fun lge =>
      withOk (rxbRange s 0 (lge.toNat + 2)) fun frame =>
        withOk (writeTxbRange s 0 frame) fun s =>
          .next (schedule { s with txLen := BitVec.ofNat 9 (lge.toNat + 2) })

/-- Class SPECIAL (R84): slot bit 2. -/
def execAdrSpecial (_low : BitVec 7) (s : State) : Result :=
  unlessFaulted s (emitIfEnabled 2 .spec)

/-- Class MIRROR (R85). -/
def execAdrMirror (_b5 : Bool) (_node : Node) (s : State) : Result :=
  unlessFaulted s mirrorFrame

/-- Class BROADCAST (R86): slot bit 1. -/
def execAdrBroadcast (_b6 : Bool) (_node : Node) (s : State) : Result :=
  unlessFaulted s (emitIfEnabled 1 .bcast)

/-- Class STANDARD (R87): slot bit 0. -/
def execAdrStandard (_node : Node) (s : State) : Result :=
  unlessFaulted s (emitIfEnabled 0 .std)

/-- Class UNADDRESSED (R88): nothing. -/
def execAdrUnaddressed (_b6 : Bool) (_node : Node) (s : State) : Result :=
  unlessFaulted s .next

/-- The class action of an ADR byte in a block with node number `cfg_node` (R82, R83): the meaning of the ADR
instruction that the byte decodes to. -/
def runClass (adr : Byte) (s : State) : Result :=
  match classify adr s.cfgNode with
  | .special => execAdrSpecial (adr.extractLsb' 0 7) s
  | .mirror => execAdrMirror (adr.getLsbD 5) (adr.extractLsb' 0 5) s
  | .broadcast => execAdrBroadcast (adr.getLsbD 6) (adr.extractLsb' 0 5) s
  | .standard => execAdrStandard (adr.extractLsb' 0 5) s
  | .unaddressed => execAdrUnaddressed (adr.getLsbD 6) (adr.extractLsb' 0 5) s

/-- `act_any(t)` (R89): slot bit 3, in every class. -/
def actAny (s : State) : Result := emitIfEnabled 3 .any s

/-- `dispatch(lge)` (R83): the class action, then the `any` action unless the class action raised a fault. -/
def dispatchFrame (s : State) : Result :=
  withOk (rxbByte s 2) fun adr => seqThen (runClass adr s) actAny

end Sys2Proof.Machine
end

