-- ==== Sys2Proof/Machine/Flags.lean ====
section
/-! DEFINITION. The status the block exposes (10_state.md section 3): the write of `last_result` (R25, R32) and the four
words of the read port (R29, R30). Reading one is no event and changes nothing (R31): each is a function of the state.
The block has no condition codes (R32). -/

namespace Sys2Proof.Machine

/-- `last_result <- r` (R25). -/
def setLastResult (r : LastResult) (s : State) : State := { s with lastResult := r }

/-- The STATUS word (R29). -/
def statusWord (s : State) : BitVec 16 :=
  0#5 ++ s.faultCause.code ++ BitVec.ofBool s.fault ++ s.lastResult.code ++ s.run.code ++ s.txState.code ++
    s.rxState.code

/-- The CONFIG word (R30). -/
def configWord (s : State) : BitVec 32 := 0#16 ++ 0#4 ++ s.cfgEn ++ 0#3 ++ s.cfgNode

/-- The BAUD word (R30). -/
def baudWord (s : State) : BitVec 32 := 0#8 ++ s.cfgBaud

/-- The STAGE word (R30). -/
def stageWord (s : State) : BitVec 32 := 0#8 ++ s.baudStage

end Sys2Proof.Machine
end

