-- ==== Sys2Proof/Machine/Receive.lean ====
section
/-! DEFINITION. The receive state machine (40_receive.md): RX_CHAR and RX_ERR. -/

namespace Sys2Proof.Machine

/-- `return_to_start()` (R69). -/
def returnToStart (s : State) : State :=
  { s with rxState := .awaitStart, bodyCount := 0, residArmed := false, residCnt := 0 }

/-- RX_CHAR in AWAIT_START (R72). -/
def rxAwaitStart (d : Byte) (s : State) : Result :=
  if d = Config.stxValue then
    withOk (writeRxb s 0 d) fun s => .next { s with rxState := .awaitLength }
  else .next s

/-- RX_CHAR in AWAIT_LENGTH with a legal LGE (R73). -/
def acceptLength (d : Byte) (s : State) : Result :=
  withOk (writeRxb s 1 d) fun s =>
    .next { s with
      bodyCount := 0
      residCnt := toCnt s.params (residLoad s d.toNat)
      residArmed := true
      rxState := .awaitBody }

/-- RX_CHAR in AWAIT_LENGTH (R73, R74). -/
def rxAwaitLength (d : Byte) (s : State) : Result :=
  if Config.minLge ≤ d.toNat ∧ d.toNat ≤ s.params.maxLge then acceptLength d s
  else .next (returnToStart (setLastResult .lenReject s))

/-- `complete_frame()` (R76), with `check_bcc` writing `last_result` (R80). -/
def completeFrame (s : State) : Result :=
  withOk (rxbByte s 1) fun lge =>
    withOk (bccMatches { s with residArmed := false, residCnt := 0 } lge.toNat) fun ok =>
      if ok then
        seqThen (dispatchFrame (setLastResult .ok { s with residArmed := false, residCnt := 0 }))
          fun s => .next (returnToStart s)
      else .next (returnToStart (setLastResult .bccMismatch { s with residArmed := false, residCnt := 0 }))

/-- The capture of one body byte (R75): the write to RXB and the count. -/
def captureByte (d : Byte) (s : State) : Except Fault State :=
  match writeRxb s (2 + s.bodyCount.toNat) d with
  | .ok s' => .ok { s' with bodyCount := s'.bodyCount + 1 }
  | .error e => .error e

/-- RX_CHAR in AWAIT_BODY (R75): `lge` is read before the byte is written. -/
def rxAwaitBody (d : Byte) (s : State) : Result :=
  withOk (rxbByte s 1) fun lge =>
    withOk (captureByte d s) fun s =>
      if s.bodyCount = lge then completeFrame s else .next s

/-- RX_CHAR (R70, R71). -/
def execRx (d : Byte) (s : State) : Result :=
  unlessFaulted s fun s =>
    match s.run with
    | .stopped => .next s
    | .running =>
      match s.rxState with
      | .awaitStart => rxAwaitStart d s
      | .awaitLength => rxAwaitLength d s
      | .awaitBody => rxAwaitBody d s

/-- RX_ERR (R70, R79): the three kinds have one effect and the kind is not recorded. -/
def execErr (_k : LineErr) (s : State) : Result :=
  unlessFaulted s fun s =>
    match s.run with
    | .stopped => .next s
    | .running =>
      if s.rxState ≠ .awaitStart then .next (returnToStart (setLastResult .lineError s))
      else .next (returnToStart s)

end Sys2Proof.Machine
end

