-- ==== Sys2Proof/Machine/Control.lean ====
section
/-! DEFINITION. The control events (43_control.md): SET_BAUD, START, STOP and illegal words. -/

namespace Sys2Proof.Machine

/-- SET_BAUD (R104). -/
def execBaud (b : Baud) (s : State) : Result :=
  unlessFaulted s fun s => .next { s with baudStage := b }

/-- The end of `stop_actions()` (R106): a reply in RESPONSE_WAIT is cancelled; one already SENDING is left (D23). -/
def cancelReply (s : State) : State :=
  { s with
    txState := if s.txState = .responseWait then .idle else s.txState
    respCnt := if s.txState = .responseWait then 0 else s.respCnt }

/-- `stop_actions()` (R106). -/
def stopActions (s : State) : State := cancelReply (returnToStart { s with run := .stopped })

/-- The largest load of a baud does not fit in `CNT_W` bits (R105, D25). -/
def loadTooLarge (P : Params) (B : Baud) : Bool := residLoadAt P B P.maxLge > 2 ^ P.cntW - 1

/-- START from the configuration check on (R105). -/
def latchConfig (nd : Node) (en : Enables) (s : State) : Result :=
  if s.baudStage = 0 then .next (raiseFault .configInvalid s)
  else if loadTooLarge s.params s.baudStage then .next (raiseFault .configInvalid s)
  else
    .next { s with
      cfgNode := nd
      cfgEn := en
      cfgBaud := s.baudStage
      lastResult := .none
      run := .running }

/-- START (R105): the STOP actions first where the block is running (D22). -/
def execStart (nd : Node) (en : Enables) (s : State) : Result :=
  unlessFaulted s fun s =>
    match s.run with
    | .running => latchConfig nd en (stopActions s)
    | .stopped => latchConfig nd en s

/-- STOP (R106). -/
def execStop (s : State) : Result :=
  unlessFaulted s fun s => .next (stopActions s)

/-- An illegal event word (R107); the word is not recorded. -/
def execIllegal (_w : EventWord) (s : State) : Result :=
  unlessFaulted s fun s => .next (raiseFault .illegalEvent s)

end Sys2Proof.Machine
end

