-- ==== Sys2Proof/Machine/Timers.lean ====
section
/-! DEFINITION. TICK (42_timers_transmit.md section 2): the residual arm, then the response arm. -/

namespace Sys2Proof.Machine

/-- `tick_resid()` (R96). -/
def tickResid (s : State) : State :=
  if s.residArmed then
    if decCnt s.params s.residCnt = 0 then
      returnToStart (setLastResult .residTimeout { s with residCnt := decCnt s.params s.residCnt })
    else { s with residCnt := decCnt s.params s.residCnt }
  else s

/-- `tick_resp()` (R97). -/
def tickResp (s : State) : Result :=
  if s.txState = .responseWait then
    if decCnt s.params s.respCnt = 0 then txStart { s with respCnt := decCnt s.params s.respCnt }
    else .next { s with respCnt := decCnt s.params s.respCnt }
  else .next s

/-- TICK (R95). -/
def execTick (s : State) : Result :=
  unlessFaulted s fun s => tickResp (tickResid s)

end Sys2Proof.Machine
end

