-- ==== Sys2Proof/Machine/Dispatch.lean ====
section
/-! DEFINITION. The meaning of each instruction, one arm for each constructor. -/

namespace Sys2Proof.Machine

def exec (i : Instr) (s : State) : Host.Outcome State Fault Refusal :=
  match i with
  | .rx d => Sys2Proof.Machine.execRx d s
  | .err k => Sys2Proof.Machine.execErr k s
  | .tick => Sys2Proof.Machine.execTick s
  | .txdone => Sys2Proof.Machine.execTxdone s
  | .baud b => Sys2Proof.Machine.execBaud b s
  | .start nd en => Sys2Proof.Machine.execStart nd en s
  | .stop => Sys2Proof.Machine.execStop s
  | .illegal w => Sys2Proof.Machine.execIllegal w s
  | .adrSpecial low => Sys2Proof.Machine.execAdrSpecial low s
  | .adrMirror b5 node => Sys2Proof.Machine.execAdrMirror b5 node s
  | .adrBroadcast b6 node => Sys2Proof.Machine.execAdrBroadcast b6 node s
  | .adrStandard node => Sys2Proof.Machine.execAdrStandard node s
  | .adrUnaddressed b6 node => Sys2Proof.Machine.execAdrUnaddressed b6 node s

end Sys2Proof.Machine
end

