-- ==== Sys2Proof/Machine/Setup.lean ====
section
/-! DEFINITION. How an instruction of the opcode table is placed so that the next step runs it: an event word is presented
at the port; an ADR byte stands in a minimal valid frame whose last byte is presented (log 11). -/

namespace Sys2Proof.Machine

/-- A running block that has received all but the last byte of the frame `02 02 adr adr` (R58: with LGE = 2 the BCC is
ADR), its residual timer with one TICK left. A block with no baud yet gets the largest one, whose timer loads are the
smallest; the node number and the enables stay. -/
def lastByteOfFrame (adr : Byte) (s : State) : State :=
  presentWord (0x1#4 ++ 0#20 ++ adr)
    { s with
      run := .running
      rxState := .awaitBody
      rxb := Memory.writeRange s.rxb 0 [Config.stxValue, 2, adr]
      bodyCount := 1
      residArmed := true
      residCnt := 1
      cfgBaud := if s.cfgBaud = 0 then 0xFFFFFF else s.cfgBaud }

/-- Place an instruction of `nbits` bits `w`: 8 bits are an ADR byte, all others an event word. -/
def placeInstr (nbits w : Nat) (s : State) : State :=
  if nbits = 8 then lastByteOfFrame (BitVec.ofNat 8 w) s
  else presentWord (BitVec.ofNat 32 w) s

end Sys2Proof.Machine
end

