-- ==== Sys2Proof/Machine/Step.lean ====
section
/-! DEFINITION. One step (00_scope.md R7): it takes the next input of the port. An event word is decoded and run; `rst`
resets the block; where the environment has presented nothing, nothing happens (log 1). -/

namespace Sys2Proof.Machine

/-- One step of the block. -/
def step (s : State) : Host.Outcome State Fault Refusal :=
  match takeInput s with
  | .nothing => .next s
  | .rst rest => .next (assertReset rest s)
  | .word w rest => exec (decodeEvent w) (beginStep rest s)

/-- The state in which the next step takes the instruction of `nbits` bits `w` (log 1, log 11). -/
def State.withFetchWord (s : State) (nbits w : Nat) : State := placeInstr nbits w s

end Sys2Proof.Machine
end

