-- ==== Sys2Proof/Machine/Assembler.lean ====
section
/-! DEFINITION. The written form of event streams (30_encoding.md section 6): frames as byte sequences (R55, R67), the
assembler forms and pseudo-instructions with their expansions into event words (R66, R67), and their text, as a list of
characters (R66). The block never sees this form: it takes event words. -/

namespace Sys2Proof.Machine

/-- The bytes of the telegram with this ADR and payload, before BCC (R55): `lge = m + 2` for `m` payload bytes. -/
def frameHead (adr : Byte) (payload : List Byte) : List Byte :=
  Config.stxValue :: BitVec.ofNat 8 (payload.length + 2) :: adr :: payload

/-- The BCC of that telegram: the XOR of the bytes before it (R58). -/
def frameBcc (adr : Byte) (payload : List Byte) : Byte := (frameHead adr payload).foldr (· ^^^ ·) 0

/-- The whole telegram (R55, `FRAME` of R67). -/
def frameBytes (adr : Byte) (payload : List Byte) : List Byte := frameHead adr payload ++ [frameBcc adr payload]

/-- The telegram with its BCC flipped (`BADFRAME` of R67). -/
def badFrameBytes (adr : Byte) (payload : List Byte) : List Byte :=
  frameHead adr payload ++ [frameBcc adr payload ^^^ 0xFF]

/-- The word `RX d` (R66). -/
def rxWord (d : Byte) : EventWord := 0x10000000 ||| d.setWidth 32

/-- One line of an event program (R66, R67). -/
inductive AsmLine where
  | rx (d : Byte)
  | err (k : LineErr)
  | tick
  | txdone
  | baud (b : Baud)
  | start (nd : Node) (en : Enables)
  | stop
  | ticks (k : Nat)
  | rxs (ds : List Byte)
  | frame (adr : Byte) (payload : List Byte)
  | badFrame (adr : Byte) (payload : List Byte)
deriving DecidableEq, Repr

/-- The event words of a line (R66, R67); none for a FRAME or BADFRAME longer than `MAX_LGE` admits. -/
def AsmLine.words (P : Params) : AsmLine → Option (List EventWord)
  | .rx d => some [rxWord d]
  | .err k => some [0x20000000 ||| k.bits.setWidth 32]
  | .tick => some [0x30000000]
  | .txdone => some [0x40000000]
  | .baud b => some [0x50000000 ||| b.setWidth 32]
  | .start nd en => some [0x60000000 ||| (en.setWidth 32 <<< 8) ||| nd.setWidth 32]
  | .stop => some [0x70000000]
  | .ticks k => some (List.replicate k 0x30000000)
  | .rxs ds => some (ds.map rxWord)
  | .frame adr payload =>
    if payload.length + 2 ≤ P.maxLge then some ((frameBytes adr payload).map rxWord) else none
  | .badFrame adr payload =>
    if payload.length + 2 ≤ P.maxLge then some ((badFrameBytes adr payload).map rxWord) else none

/-! The text of a line (R66). -/

/-- What stands before the comment. -/
def beforeComment : List Char → List Char
  | [] => []
  | c :: cs => if c = ';' then [] else c :: beforeComment cs

/-- The parts of a text between the characters `sep`, empty parts included. -/
def splitAt (sep : Char) : List Char → List (List Char)
  | [] => [[]]
  | c :: cs =>
    if c = sep then [] :: splitAt sep cs
    else
      match splitAt sep cs with
      | [] => [[c]]
      | part :: parts => (c :: part) :: parts

/-- The tokens of a line. -/
def tokens (line : List Char) : List (List Char) :=
  (splitAt ' ' (beforeComment line)).filter (· ≠ [])

/-- The value of a digit. -/
def digitOf (base : Nat) (c : Char) : Option Nat :=
  let v :=
    if '0' ≤ c ∧ c ≤ '9' then c.toNat - 48
    else if 'a' ≤ c ∧ c ≤ 'f' then c.toNat - 87
    else if 'A' ≤ c ∧ c ≤ 'F' then c.toNat - 55
    else base
  if v < base then some v else none

/-- The value of a digit string, its digits read after `acc`. -/
def digitsOf (base acc : Nat) : List Char → Option Nat
  | [] => some acc
  | c :: cs =>
    match digitOf base c with
    | some v => digitsOf base (acc * base + v) cs
    | none => none

/-- A number: decimal, `0x` hexadecimal or `0b` binary (R66). -/
def numberOf : List Char → Option Nat
  | [] => none
  | ['0', 'x'] => none
  | ['0', 'b'] => none
  | '0' :: 'x' :: ds => digitsOf 16 0 ds
  | '0' :: 'b' :: ds => digitsOf 2 0 ds
  | ds => digitsOf 10 0 ds

/-- A number that fits in `n` bits. -/
def fieldOf (n : Nat) (cs : List Char) : Option (BitVec n) :=
  match numberOf cs with
  | some v => if v < 2 ^ n then some (BitVec.ofNat n v) else none
  | none => none

/-- A list of bytes. -/
def bytesOf : List (List Char) → Option (List Byte)
  | [] => some []
  | t :: ts =>
    match fieldOf 8 t, bytesOf ts with
    | some d, some ds => some (d :: ds)
    | _, _ => none

/-- The enable bit of a slot's name (R61, R66). -/
def slotOf (name : List Char) : Option Enables :=
  if name = ['s', 't', 'd'] then some 1
  else if name = ['b', 'c', 'a', 's', 't'] then some 2
  else if name = ['s', 'p', 'e', 'c'] then some 4
  else if name = ['a', 'n', 'y'] then some 8
  else none

/-- The union of named slots. -/
def slotsOf : List (List Char) → Option Enables
  | [] => some 0
  | t :: ts =>
    match slotOf t, slotsOf ts with
    | some a, some b => some (a ||| b)
    | _, _ => none

/-- `<en>`: a 4-bit number, or slot names joined by `+` (R66). -/
def enablesOf (cs : List Char) : Option Enables :=
  match fieldOf 4 cs with
  | some en => some en
  | none => slotsOf (splitAt '+' cs)

/-- `<k>` of ERR (R66). -/
def errKindOf (cs : List Char) : Option LineErr :=
  if cs = ['F', 'R', 'A', 'M', 'I', 'N', 'G'] then some .framing
  else if cs = ['P', 'A', 'R', 'I', 'T', 'Y'] then some .parity
  else if cs = ['O', 'V', 'E', 'R', 'R', 'U', 'N'] then some .overrun
  else none

/-- `node=<nd> en=<en>` (R66). -/
def startOf : List (List Char) → Option AsmLine
  | ['n' :: 'o' :: 'd' :: 'e' :: '=' :: nd, 'e' :: 'n' :: '=' :: en] =>
    match fieldOf 5 nd, enablesOf en with
    | some nd, some en => some (.start nd en)
    | _, _ => none
  | _ => none

/-- The line of a non-empty token list (R66, R67). -/
def lineOf (op : List Char) (args : List (List Char)) : Option AsmLine :=
  if op = ['R', 'X'] then
    match args with
    | [d] => (fieldOf 8 d).map .rx
    | _ => none
  else if op = ['E', 'R', 'R'] then
    match args with
    | [k] => (errKindOf k).map .err
    | _ => none
  else if op = ['T', 'I', 'C', 'K'] then (if args = [] then some .tick else none)
  else if op = ['T', 'X', 'D', 'O', 'N', 'E'] then (if args = [] then some .txdone else none)
  else if op = ['B', 'A', 'U', 'D'] then
    match args with
    | [b] => (fieldOf 24 b).map .baud
    | _ => none
  else if op = ['S', 'T', 'A', 'R', 'T'] then startOf args
  else if op = ['S', 'T', 'O', 'P'] then (if args = [] then some .stop else none)
  else if op = ['T', 'I', 'C', 'K', 'S'] then
    match args with
    | [k] => (numberOf k).map .ticks
    | _ => none
  else if op = ['R', 'X', 'S'] then (if args = [] then none else (bytesOf args).map .rxs)
  else if op = ['F', 'R', 'A', 'M', 'E'] then
    match bytesOf args with
    | some (adr :: payload) => some (.frame adr payload)
    | _ => none
  else if op = ['B', 'A', 'D', 'F', 'R', 'A', 'M', 'E'] then
    match bytesOf args with
    | some (adr :: payload) => some (.badFrame adr payload)
    | _ => none
  else none

/-- The event words of one line of text: none where it is no form of R66 or R67, no word for an empty line. -/
def assembleLine (P : Params) (line : List Char) : Option (List EventWord) :=
  match tokens line with
  | [] => some []
  | op :: args =>
    match lineOf op args with
    | some l => l.words P
    | none => none

end Sys2Proof.Machine
end

