-- ==== Sys2Proof/Safety.lean ====
section
/-! DEFINITION. What the claims call a sound state and a safe step: the invariants of 10_state.md R38 and R39 with the
ranges of R94, the frame that a character completes (40_receive.md R75, R76), the records a valid frame is to cause
(41_checksum_dispatch.md R91), and the conditions under which an instruction raises a fault (60_exceptions.md R109). -/

namespace Sys2Proof.Safety

open Sys2Proof.Machine

/-- All `n` bytes from index `a` on have been written. -/
abbrev Written (m : Memory) (a n : Nat) : Prop := (Memory.readRange m a n).isSome = true

/-- The LGE byte that RXB[1] holds; 0 where nothing has been written. -/
def lgeOf (s : State) : Nat :=
  match Memory.read s.rxb 1 with
  | some l => l.toNat
  | none => 0

/-- The LGE byte that TXB[1] holds; 0 where nothing has been written. -/
def txLgeOf (s : State) : Nat :=
  match Memory.read s.txb 1 with
  | some l => l.toNat
  | none => 0

/-- What holds in every state, the faulted ones too. -/
structure Sound (s : State) : Prop where
  /-- The OPEN parameters are in the ranges of R8. -/
  params : s.params.Wf
  /-- RXB is in canonical form, inside `BUF_BYTES` (R41, R42). -/
  rxb : Memory.wf s.params.bufBytes s.rxb = true
  /-- TXB is in canonical form, inside `BUF_BYTES` (R41, R42). -/
  txb : Memory.wf s.params.bufBytes s.txb = true
  /-- `resid_cnt` has `CNT_W` bits (R21). -/
  residCnt : s.residCnt < 2 ^ s.params.cntW
  /-- `resp_cnt` has `CNT_W` bits (R24). -/
  respCnt : s.respCnt < 2 ^ s.params.cntW
  /-- A fault has a cause, and a cause a fault (R26). -/
  cause : s.fault = false ↔ s.faultCause = .none

/-- What holds in every state without a fault: R38, R39, and what makes the loads of R92 fit (R94). -/
structure Live (s : State) : Prop where
  /-- R38: the residual timer is armed in AWAIT_BODY and nowhere else. -/
  armed : s.rxState = .awaitBody ↔ s.residArmed = true
  /-- R94: "a running timer holds at least 1". -/
  residRuns : s.residArmed = true → 1 ≤ s.residCnt
  /-- R69: a disarmed residual timer holds 0. -/
  residRests : s.residArmed = false → s.residCnt = 0
  /-- R38: a frame is in progress only while running, and it begins with STX. -/
  started : s.rxState ≠ .awaitStart → s.run = .running ∧ Memory.read s.rxb 0 = some Config.stxValue
  /-- R38: in AWAIT_BODY the LGE is legal and the body is not complete. -/
  body : s.rxState = .awaitBody →
    Config.minLge ≤ lgeOf s ∧ lgeOf s ≤ s.params.maxLge ∧ s.bodyCount.toNat < lgeOf s
  /-- R40: the bytes of the frame in progress have been written. -/
  captured : s.rxState = .awaitBody → Written s.rxb 0 (2 + s.bodyCount.toNat)
  /-- R38: outside AWAIT_BODY `body_count` is 0. -/
  noBody : s.rxState ≠ .awaitBody → s.bodyCount = 0
  /-- R105: while running the baud is non-zero and the largest load fits. -/
  loads : s.run = .running → s.cfgBaud ≠ 0 ∧ residLoadAt s.params s.cfgBaud s.params.maxLge ≤ 2 ^ s.params.cntW - 1
  /-- R39: a reply waits only while running, with at least one TICK left. -/
  waiting : s.txState = .responseWait → s.run = .running ∧ 1 ≤ s.respCnt
  /-- R39: a waiting or sent reply is the frame in TXB, `LGE + 2` bytes. -/
  reply : s.txState ≠ .idle → s.txLen.toNat = txLgeOf s + 2 ∧ Written s.txb 0 s.txLen.toNat

/-- The invariant of the block. -/
structure Invariant (s : State) : Prop where
  sound : Sound s
  live : s.fault = false → Live s

/-- The whole frame that RX_CHAR `d` completes, STX first and `d` as its BCC; none where `d` completes no frame (R75). -/
def completedFrame (d : Byte) (s : State) : Option (List Byte) :=
  if s.run = .running ∧ s.rxState = .awaitBody ∧ s.bodyCount.toNat + 1 = lgeOf s then
    (Memory.readRange s.rxb 0 (lgeOf s + 1)).map (· ++ [d])
  else none

/-- A frame is valid when all its bytes, BCC included, XOR to zero (R80). -/
def validFrame (frame : List Byte) : Prop := xorBytes frame = 0

/-- The ADR byte of a frame (R43). -/
def adrOf (frame : List Byte) : Byte := frame.getD 2 0

/-- The telegram record of a frame (R43, R65). -/
def telegramOf (frame : List Byte) : Telegram :=
  { stx := frame.getD 0 0
    lge := frame.getD 1 0
    adr := frame.getD 2 0
    payload := (frame.drop 3).take (frame.length - 4)
    bcc := frame.getD (frame.length - 1) 0 }

/-- The callback port of a class and the enable bit of its slot; MIRROR and UNADDRESSED have none (R27, R64). -/
def slotOfClass : AdrClass → Option (OutPort × Nat)
  | .special => some (.spec, 2)
  | .mirror => none
  | .broadcast => some (.bcast, 1)
  | .standard => some (.std, 0)
  | .unaddressed => none

/-- The class record of a telegram (R84 to R88). -/
def classRecord (en : Enables) (c : AdrClass) (t : Telegram) : List OutRec :=
  match slotOfClass c with
  | some (port, slot) => if en.getLsbD slot then [.tel port t] else []
  | none => []

/-- The `ANY` record of a telegram (R89). -/
def anyRecord (en : Enables) (t : Telegram) : List OutRec := if en.getLsbD 3 then [.tel .any t] else []

/-- The records of a valid frame, the class record first (R83, R91). -/
def frameRecords (s : State) (frame : List Byte) : List OutRec :=
  classRecord s.cfgEn (classify (adrOf frame) s.cfgNode) (telegramOf frame) ++ anyRecord s.cfgEn (telegramOf frame)

/-- A mirror request that finds the transmitter busy (R85, R123). -/
def mirrorWhileBusy (s : State) (frame : List Byte) : Prop :=
  classify (adrOf frame) s.cfgNode = .mirror ∧ s.txState ≠ .idle

/-- `instr` raises the fault `c` in the state `s`: the conditions of R109. -/
def Raises (instr : Instr) (s : State) (c : FaultCause) : Prop :=
  match instr with
  | .rx d =>
    c = .txBusy ∧ ∃ frame, completedFrame d s = some frame ∧ validFrame frame ∧ mirrorWhileBusy s frame
  | .err _ => False
  | .tick => False
  | .txdone => False
  | .baud _ => False
  | .start _ _ => c = .configInvalid ∧ (s.baudStage = 0 ∨ loadTooLarge s.params s.baudStage = true)
  | .stop => False
  | .illegal _ => c = .illegalEvent
  | .adrSpecial _ => False
  | .adrMirror _ _ => c = .txBusy ∧ s.txState ≠ .idle
  | .adrBroadcast _ _ => False
  | .adrStandard _ => False
  | .adrUnaddressed _ _ => False

end Sys2Proof.Safety
end

