-- ==== Sys2Proof/Certificates/Slice0/Obligations.lean ====
section
/-! DEFINITION. The statements for the provers. Each docstring names the rules of spec/ it formalises. In all of them
`raiseFault` is the model's `raise Fault` (R110): what it leaves in the elements R110 leaves open is a free value, on which
no statement rests (log 6); `port` is how the model holds the environment's inputs (log 1), and `trace` followed by `out`
how it holds the records emitted so far (log 3). -/

open Sys2Proof Sys2Proof.Machine Sys2Proof.Safety

namespace Sys2Proof.Statements

/-- `n` TICK words. -/
def tickInputs (n : Nat) : List PortInput := List.replicate n (.word 0x30000000)

/-- The RX_CHAR words of a byte sequence, in order. -/
def rxInputs (bytes : List Byte) : List PortInput := bytes.map fun d => .word (rxWord d)

/-- The frame in RXB: its LGE is `lge`, at least 2, and all its bytes have been written inside the buffer (R43). -/
def FrameInRxb (s : State) (lge : Nat) (frame : List Byte) : Prop :=
  2 ≤ lge ∧ lge + 2 ≤ s.params.bufBytes ∧ Memory.readRange s.rxb 0 (lge + 2) = some frame ∧
    (frame.getD 1 0).toNat = lge

/-- The state after the last body byte `d` has been captured and its frame checked with the result `r`: the byte stands
in RXB, the receiver is back in AWAIT_START, the residual timer is disarmed (R75, R76, R80). -/
def afterFrame (d : Byte) (r : LastResult) (s : State) : State :=
  { s with
    rxb := Memory.write s.rxb (2 + s.bodyCount.toNat) d
    rxState := .awaitStart
    bodyCount := 0
    residArmed := false
    residCnt := 0
    lastResult := r }

/-- The state in which the class action of the frame completed by `d` runs (R75, R76, R80). -/
def beforeDispatch (d : Byte) (s : State) : State :=
  { s with
    rxb := Memory.write s.rxb (2 + s.bodyCount.toNat) d
    bodyCount := s.bodyCount + 1
    residArmed := false
    residCnt := 0
    lastResult := .ok }

/-- The residual timer expires at the next TICK. -/
def residExpires (s : State) : Bool := s.residArmed && s.residCnt == 1

/-- The response delay ends at the next TICK. -/
def respExpires (s : State) : Bool := s.txState == .responseWait && s.respCnt == 1

/-- The index of RXB that RX_CHAR `d` stores to, with the expressions of R72, R73 and R75; none where it stores nothing. -/
def rxStoreIndex (d : Byte) (s : State) : Option Nat :=
  if s.fault = true ∨ s.run = .stopped then none
  else
    match s.rxState with
    | .awaitStart => if d = Config.stxValue then some 0 else none
    | .awaitLength => if Config.minLge ≤ d.toNat ∧ d.toNat ≤ s.params.maxLge then some 1 else none
    | .awaitBody => some (2 + s.bodyCount.toNat)

/-- Every element of 10_state.md has its reset value (R40); the contents of the buffers are unspecified. -/
def AtReset (t : State) : Prop :=
  t.run = .stopped ∧ t.rxState = .awaitStart ∧ t.bodyCount = 0 ∧ t.residArmed = false ∧ t.residCnt = 0 ∧
    t.txState = .idle ∧ t.txLen = 0 ∧ t.respCnt = 0 ∧ t.lastResult = .none ∧ t.fault = false ∧ t.faultCause = .none ∧
    t.cfgNode = 0 ∧ t.cfgEn = 0 ∧ t.cfgBaud = 0 ∧ t.baudStage = 0 ∧ t.out = []

/-- A telegram record. -/
def IsTelegram (o : OutRec) : Prop := ∃ port t, o = .tel port t

/-- A record for the transmitter. -/
def IsTxStart (o : OutRec) : Prop := ∃ bytes, o = .txStart bytes

end Sys2Proof.Statements

open Sys2Proof.Statements

/-! Encodings. -/

/-- Decode and encode agree: every well-formed instruction, at every operand value, is what its code decodes to
(30_encoding.md R59 to R63). -/
def Obligations.DecodeOfEncodeIsIdentity : Prop :=
  ∀ (N : Node) (i : Instr), i.wellFormed N = true → decode N (encode i) = i

/-- Every code is the code of the one well-formed instruction it decodes to: all 2^32 words and all 256 ADR bytes have a
meaning, and no bit is dropped (R59, R61, R63). -/
def Obligations.EncodeOfDecodeIsIdentity : Prop :=
  ∀ (N : Node) (c : Code), (decode N c).wellFormed N = true ∧ encode (decode N c) = c

/-- R63: a word is illegal in exactly the cases (a), (b), (c), and an illegal word raises Fault(ILLEGAL_EVENT); the
all-zero word is illegal. -/
def Obligations.IllegalWordsAreThoseOfTheThreeCases : Prop :=
  (∀ w : EventWord,
    (decodeEvent w = .illegal w ↔
      ((w >>> 28 = 0 ∨ 8 ≤ (w >>> 28).toNat) ∨
       (w >>> 28 = 1 ∧ w &&& 0x0FFFFF00 ≠ 0) ∨ (w >>> 28 = 2 ∧ w &&& 0x0FFFFFFC ≠ 0) ∨
       (w >>> 28 = 3 ∧ w &&& 0x0FFFFFFF ≠ 0) ∨ (w >>> 28 = 4 ∧ w &&& 0x0FFFFFFF ≠ 0) ∨
       (w >>> 28 = 5 ∧ w &&& 0x0F000000 ≠ 0) ∨ (w >>> 28 = 6 ∧ w &&& 0x0FFFF0E0 ≠ 0) ∨
       (w >>> 28 = 7 ∧ w &&& 0x0FFFFFFF ≠ 0) ∨
       (w >>> 28 = 2 ∧ w &&& 3 = 3))) ∧
    (decodeEvent w = .illegal w → ∀ s : State, s.fault = false →
      exec (decodeEvent w) s = .next (raiseFault .illegalEvent s))) ∧
  decodeEvent 0 = .illegal 0

/-- R60: the ADR map, row by row. -/
def Obligations.ClassifyFollowsTheAdrMap : Prop :=
  ∀ (adr : Byte) (N : Node),
    (classify adr N = .special ↔ adr.getLsbD 7 = true) ∧
    (classify adr N = .mirror ↔ adr.getLsbD 7 = false ∧ adr.getLsbD 6 = true ∧ adr.extractLsb' 0 5 = N) ∧
    (classify adr N = .broadcast ↔
      adr.getLsbD 7 = false ∧ adr.getLsbD 5 = true ∧ ¬(adr.getLsbD 6 = true ∧ adr.extractLsb' 0 5 = N)) ∧
    (classify adr N = .standard ↔ adr.extractLsb' 5 3 = 0 ∧ adr.extractLsb' 0 5 = N) ∧
    (classify adr N = .unaddressed ↔ adr.getLsbD 7 = false ∧ adr.getLsbD 5 = false ∧ adr.extractLsb' 0 5 ≠ N)

/-- A sanity check of the decoder on words written out in spec/ (30_encoding.md R68, 95_test_vectors.md V-E, V-C). -/
def Obligations.WrittenOutCodesDecode : Prop :=
  decodeEvent 0x100000FF = .rx 0xFF ∧ decodeEvent 0x20000001 = .err .parity ∧ decodeEvent 0x30000000 = .tick ∧
  decodeEvent 0x40000000 = .txdone ∧ decodeEvent 0x50002580 = .baud 9600 ∧
  decodeEvent 0x60000A05 = .start 5 0b1010 ∧ decodeEvent 0x70000000 = .stop ∧
  decodeEvent 0x20000003 = .illegal 0x20000003 ∧ decodeAdr 0 0x9F = .adrSpecial 0x1F ∧
  decodeAdr 31 0x7F = .adrMirror true 31 ∧ decodeAdr 3 0x25 = .adrBroadcast false 5 ∧
  decodeAdr 16 0x10 = .adrStandard 16 ∧ decodeAdr 0 0x41 = .adrUnaddressed true 1

/-- R68: the encodings the spec works out for its assembler forms. -/
def Obligations.AssemblerFormsGiveTheirWords : Prop :=
  (∀ P : Params, 4 ≤ P.maxLge →
    (AsmLine.frame 0x00 [0x11, 0x22]).words P = (AsmLine.rxs [0x02, 0x04, 0x00, 0x11, 0x22, 0x35]).words P ∧
    (AsmLine.frame 0x00 [0x11, 0x22]).words P =
      some [0x10000002, 0x10000004, 0x10000000, 0x10000011, 0x10000022, 0x10000035]) ∧
  (∀ P : Params,
    (AsmLine.start 0 0b1111).words P = some [0x60000F00] ∧ (AsmLine.start 5 0b0001).words P = some [0x60000105] ∧
    (AsmLine.baud 9600).words P = some [0x50002580] ∧ (AsmLine.err .parity).words P = some [0x20000001]) ∧
  decodeEvent 0x20000003 = .illegal 0x20000003 ∧ decodeEvent 0x10000100 = .illegal 0x10000100

/-! The step, reset, and the read port. -/

/-- A step runs the instruction that the word at the port decodes to (00_scope.md R7), on the state from which the word has
been taken and whose earlier records have joined the trace (the model's choice, log 1 and log 3). -/
def Obligations.StepRunsTheDecodedWord : Prop :=
  ∀ (s : State) (w : EventWord) (rest : List PortInput) (i : Instr),
    s.port = .word w :: rest → decodeEvent w = i →
      step s = exec i { s with port := rest, trace := s.trace ++ s.out, out := [] }

/-- Where the environment has presented nothing, a step changes nothing (the model's choice, log 1). -/
def Obligations.EmptyPortChangesNothing : Prop := ∀ s : State, s.port = [] → step s = .next s

/-- R36, R120: after reset every element has its reset value and no record is held; the input `rst` does this in one step,
in every state, the faulted ones too. -/
def Obligations.ResetInputGivesTheResetValues : Prop :=
  AtReset State.reset ∧ (∀ P : Params, AtReset (State.resetOf P)) ∧
    ∀ (s : State) (rest : List PortInput), s.port = .rst :: rest → ∃ t, step s = .next t ∧ AtReset t

/-- R29: the STATUS word, field by field, with the codes that R17, R18, R22, R25 and R26 give the values of its fields. -/
def Obligations.StatusWordHasItsLayout : Prop :=
  ∀ s : State,
    (statusWord s).extractLsb' 0 2 = s.rxState.code ∧ (statusWord s).extractLsb' 2 2 = s.txState.code ∧
    (statusWord s).extractLsb' 4 1 = s.run.code ∧ (statusWord s).extractLsb' 5 3 = s.lastResult.code ∧
    (statusWord s).extractLsb' 8 1 = BitVec.ofBool s.fault ∧ (statusWord s).extractLsb' 9 2 = s.faultCause.code ∧
    (statusWord s).extractLsb' 11 5 = 0 ∧
    RunState.code .stopped = 0 ∧ RunState.code .running = 1 ∧
    RxState.code .awaitStart = 0 ∧ RxState.code .awaitLength = 1 ∧ RxState.code .awaitBody = 2 ∧
    TxState.code .idle = 0 ∧ TxState.code .responseWait = 1 ∧ TxState.code .sending = 2 ∧
    LastResult.code .none = 0 ∧ LastResult.code .ok = 1 ∧ LastResult.code .bccMismatch = 2 ∧
    LastResult.code .lenReject = 3 ∧ LastResult.code .lineError = 4 ∧ LastResult.code .residTimeout = 5 ∧
    FaultCause.code .none = 0 ∧ FaultCause.code .txBusy = 1 ∧ FaultCause.code .configInvalid = 2 ∧
    FaultCause.code .illegalEvent = 3

/-- R30: the CONFIG, BAUD and STAGE words, field by field. -/
def Obligations.ConfigurationWordsHaveTheirLayout : Prop :=
  ∀ s : State,
    (configWord s).extractLsb' 0 5 = s.cfgNode ∧ (configWord s).extractLsb' 5 3 = 0 ∧
    (configWord s).extractLsb' 8 4 = s.cfgEn ∧ (configWord s).extractLsb' 12 4 = 0 ∧
    (configWord s).extractLsb' 16 16 = 0 ∧
    (baudWord s).extractLsb' 0 24 = s.cfgBaud ∧ (baudWord s).extractLsb' 24 8 = 0 ∧
    (stageWord s).extractLsb' 0 24 = s.baudStage ∧ (stageWord s).extractLsb' 24 8 = 0

/-! The receive path. -/

/-- R70: while STOPPED, RX_CHAR and RX_ERR change no state and emit nothing. -/
def Obligations.LineEventsIgnoredWhileStopped : Prop :=
  ∀ (s : State) (d : Byte) (k : LineErr), s.run = .stopped → exec (.rx d) s = .next s ∧ exec (.err k) s = .next s

/-- R72: RX_CHAR in AWAIT_START. -/
def Obligations.RxInAwaitStart : Prop :=
  ∀ (s : State) (d : Byte), s.fault = false → s.run = .running → s.rxState = .awaitStart →
    (d = 0x02 → exec (.rx d) s = .next { s with rxb := Memory.write s.rxb 0 d, rxState := .awaitLength }) ∧
    (d ≠ 0x02 → exec (.rx d) s = .next s)

/-- R73: RX_CHAR in AWAIT_LENGTH with a legal LGE, with the load of R92. The timer was disarmed before. -/
def Obligations.RxAcceptsALegalLength : Prop :=
  ∀ (s : State) (d : Byte), Invariant s → s.fault = false → s.rxState = .awaitLength →
    2 ≤ d.toNat → d.toNat ≤ s.params.maxLge →
      s.residArmed = false ∧
      exec (.rx d) s = .next { s with
        rxb := Memory.write s.rxb 1 d
        bodyCount := 0
        residCnt := (33 * d.toNat * s.params.tickHz + 2 * s.cfgBaud.toNat - 1) / (2 * s.cfgBaud.toNat) + 1
        residArmed := true
        rxState := .awaitBody }

/-- R74: RX_CHAR in AWAIT_LENGTH with any other LGE. -/
def Obligations.RxRejectsAnIllegalLength : Prop :=
  ∀ (s : State) (d : Byte), s.fault = false → s.run = .running → s.rxState = .awaitLength →
    (d.toNat < 2 ∨ s.params.maxLge < d.toNat) →
      exec (.rx d) s = .next { s with
        lastResult := .lenReject
        rxState := .awaitStart
        bodyCount := 0
        residArmed := false
        residCnt := 0 }

/-- R75: RX_CHAR in AWAIT_BODY captures one body byte at `2 + body_count`, an index inside the buffer, whatever its value,
and runs `complete_frame` exactly when the count reaches LGE. -/
def Obligations.RxCapturesABodyByte : Prop :=
  ∀ (s : State) (d lge : Byte), Invariant s → s.fault = false → s.rxState = .awaitBody →
    Memory.read s.rxb 1 = some lge →
      2 + s.bodyCount.toNat ≤ lge.toNat + 1 ∧ lge.toNat + 1 < s.params.bufBytes ∧
      exec (.rx d) s =
        (if s.bodyCount + 1 = lge then
          completeFrame { s with
            rxb := Memory.write s.rxb (2 + s.bodyCount.toNat) d
            bodyCount := s.bodyCount + 1 }
        else .next { s with
          rxb := Memory.write s.rxb (2 + s.bodyCount.toNat) d
          bodyCount := s.bodyCount + 1 })

/-- R80, R76: a frame whose BCC does not match sets BCC_MISMATCH, and nothing is dispatched. -/
def Obligations.BccMismatchDropsTheFrame : Prop :=
  ∀ (s : State) (d : Byte) (frame : List Byte), Invariant s → s.fault = false → completedFrame d s = some frame →
    ¬validFrame frame → exec (.rx d) s = .next (afterFrame d .bccMismatch s)

/-- R83, R76, R65: a valid frame that is no mirror request for this node gives its class record and its ANY record, in
that order, and the receiver is back in AWAIT_START. -/
def Obligations.ValidFrameIsDispatched : Prop :=
  ∀ (s : State) (d : Byte) (frame : List Byte), Invariant s → s.fault = false → completedFrame d s = some frame →
    validFrame frame → classify (adrOf frame) s.cfgNode ≠ .mirror →
      exec (.rx d) s = .next { afterFrame d .ok s with out := s.out ++ frameRecords s frame }

/-- R85, R98, R89: a valid mirror request with an idle transmitter copies the frame to TXB, loads the response delay and
emits only the ANY record. -/
def Obligations.ValidMirrorFrameIsScheduled : Prop :=
  ∀ (s : State) (d : Byte) (frame : List Byte), Invariant s → s.fault = false → completedFrame d s = some frame →
    validFrame frame → classify (adrOf frame) s.cfgNode = .mirror → s.txState = .idle →
      exec (.rx d) s = .next { afterFrame d .ok s with
        txb := Memory.writeRange s.txb 0 frame
        txLen := BitVec.ofNat 9 (lgeOf s + 2)
        respCnt := (22 * s.params.tickHz + s.cfgBaud.toNat - 1) / s.cfgBaud.toNat + 1
        txState := .responseWait
        out := s.out ++ anyRecord s.cfgEn (telegramOf frame) }

/-- R85, R110: a valid mirror request with a busy transmitter faults, and its ANY record is discarded. -/
def Obligations.MirrorWhileBusyFaults : Prop :=
  ∀ (s : State) (d : Byte) (frame : List Byte), Invariant s → s.fault = false → completedFrame d s = some frame →
    validFrame frame → mirrorWhileBusy s frame → exec (.rx d) s = .next (raiseFault .txBusy s)

/-- R83, R76: the step of the last byte of a valid frame runs the ADR instruction that the frame's ADR byte decodes to
for this node, then the `any` action, then the return to AWAIT_START; a fault ends it at once. -/
def Obligations.LastByteRunsTheDecodedAdrInstruction : Prop :=
  ∀ (s : State) (d : Byte) (frame : List Byte), Invariant s → s.fault = false → completedFrame d s = some frame →
    validFrame frame →
      exec (.rx d) s =
        seqThen (seqThen (exec (decodeAdr s.cfgNode (adrOf frame)) (beforeDispatch d s)) actAny)
          (fun t => .next (returnToStart t))

/-- R79: RX_ERR and its encoding. In AWAIT_START, while stopped and while faulted it changes nothing; elsewhere it aborts
the frame with LINE_ERROR. All three kinds have this effect. -/
def Obligations.LineErrorAbortsTheFrame : Prop :=
  decodeEvent 0x20000000 = .err .framing ∧ decodeEvent 0x20000001 = .err .parity ∧
  decodeEvent 0x20000002 = .err .overrun ∧
  ∀ (s : State) (k : LineErr), Invariant s →
    (s.fault = true ∨ s.run = .stopped ∨ s.rxState = .awaitStart → exec (.err k) s = .next s) ∧
    (s.fault = false → s.run = .running → s.rxState ≠ .awaitStart → exec (.err k) s = .next { s with
      lastResult := .lineError
      rxState := .awaitStart
      bodyCount := 0
      residArmed := false
      residCnt := 0 })

/-- The source's round trip (R55 to R58, R71 to R76, R91): in a running block that waits for a frame, the words of any
telegram of legal length give, at its last byte and nowhere earlier, exactly the records of its class and the ANY record
with the telegram's own payload, and a mirror request for this node puts those very bytes into TXB with the delay of R92
loaded; every other telegram leaves `tx_state`, TXB, `tx_len` and `resp_cnt` as they were. A mirror request that finds the
transmitter busy is left to MirrorWhileBusyFaults. -/
def Obligations.TelegramIsReceivedAndDispatchedOnce : Prop :=
  ∀ (s : State) (adr : Byte) (payload : List Byte) (rest : List PortInput),
    Invariant s → s.fault = false → s.run = .running → s.rxState = .awaitStart →
    payload.length + 2 ≤ s.params.maxLge → ¬mirrorWhileBusy s (frameBytes adr payload) →
    s.port = rxInputs (frameBytes adr payload) ++ rest →
      ∃ t, core.run (payload.length + 4) s = .next t ∧
        t.fault = false ∧ t.rxState = .awaitStart ∧ t.lastResult = .ok ∧ t.port = rest ∧
        t.trace = s.trace ++ s.out ∧
        t.out = classRecord s.cfgEn (classify adr s.cfgNode)
            { stx := 0x02, lge := BitVec.ofNat 8 (payload.length + 2), adr := adr, payload := payload,
              bcc := frameBcc adr payload } ++
          anyRecord s.cfgEn
            { stx := 0x02, lge := BitVec.ofNat 8 (payload.length + 2), adr := adr, payload := payload,
              bcc := frameBcc adr payload } ∧
        (classify adr s.cfgNode = .mirror →
          t.txState = .responseWait ∧ t.txLen.toNat = payload.length + 4 ∧
            t.respCnt = (22 * s.params.tickHz + s.cfgBaud.toNat - 1) / s.cfgBaud.toNat + 1 ∧
            Memory.readRange t.txb 0 (payload.length + 4) = some (frameBytes adr payload)) ∧
        (classify adr s.cfgNode ≠ .mirror →
          t.txState = s.txState ∧ t.txb = s.txb ∧ t.txLen = s.txLen ∧ t.respCnt = s.respCnt)

/-- The source's flipped-BCC scenario for every telegram (R67, R80, R91): no record, BCC_MISMATCH, transmitter untouched. -/
def Obligations.TelegramWithFlippedBccIsDropped : Prop :=
  ∀ (s : State) (adr : Byte) (payload : List Byte) (rest : List PortInput),
    Invariant s → s.fault = false → s.run = .running → s.rxState = .awaitStart →
    payload.length + 2 ≤ s.params.maxLge → s.port = rxInputs (badFrameBytes adr payload) ++ rest →
      ∃ t, core.run (payload.length + 4) s = .next t ∧
        t.fault = false ∧ t.rxState = .awaitStart ∧ t.lastResult = .bccMismatch ∧ t.port = rest ∧
        t.trace = s.trace ++ s.out ∧ t.out = [] ∧ t.txState = s.txState ∧ t.txb = s.txb ∧ t.txLen = s.txLen ∧
        t.respCnt = s.respCnt

/-- R81: a frame in which exactly one byte differs from a valid frame, LGE left alone, fails the check: where the one
would be accepted, the other sets BCC_MISMATCH and emits nothing. In the first clause the byte `j` before the BCC differs;
in the second the BCC. -/
def Obligations.OneCorruptedByteFailsTheCheck : Prop :=
  ∀ (s : State) (d : Byte) (frame : List Byte),
    Invariant s → s.fault = false → completedFrame d s = some frame → validFrame frame →
      (∀ (j : Nat) (b : Byte), j ≤ lgeOf s → j ≠ 1 → Memory.read s.rxb j ≠ some b →
        exec (.rx d) { s with rxb := Memory.write s.rxb j b } =
          .next (afterFrame d .bccMismatch { s with rxb := Memory.write s.rxb j b })) ∧
      (∀ d' : Byte, d' ≠ d → exec (.rx d') s = .next (afterFrame d' .bccMismatch s))

/-! The ADR classes. -/

/-- R84, R86, R87, R88: the class actions on the frame in RXB: SPECIAL, BROADCAST and STANDARD emit the telegram on
their port when their slot is enabled, and nothing else happens; UNADDRESSED does nothing. -/
def Obligations.CallbackClassesEmitTheirRecord : Prop :=
  ∀ (s : State) (lge : Nat) (frame : List Byte), s.fault = false → FrameInRxb s lge frame →
    (∀ low, exec (.adrSpecial low) s =
      .next { s with out := s.out ++ if s.cfgEn.getLsbD 2 then [.tel .spec (telegramOf frame)] else [] }) ∧
    (∀ b6 node, exec (.adrBroadcast b6 node) s =
      .next { s with out := s.out ++ if s.cfgEn.getLsbD 1 then [.tel .bcast (telegramOf frame)] else [] }) ∧
    (∀ node, exec (.adrStandard node) s =
      .next { s with out := s.out ++ if s.cfgEn.getLsbD 0 then [.tel .std (telegramOf frame)] else [] }) ∧
    (∀ b6 node, exec (.adrUnaddressed b6 node) s = .next s)

/-- R85: the mirror action: TX_BUSY unless the transmitter is idle; else the frame in RXB is copied verbatim to TXB, with
its length, and scheduled with the load of R92. -/
def Obligations.MirrorActionCopiesAndSchedules : Prop :=
  ∀ (s : State) (b5 : Bool) (node : Node) (lge : Nat) (frame : List Byte), s.fault = false →
    (s.txState ≠ .idle → exec (.adrMirror b5 node) s = .next (raiseFault .txBusy s)) ∧
    (s.txState = .idle → FrameInRxb s lge frame → s.cfgBaud ≠ 0 →
      (22 * s.params.tickHz + s.cfgBaud.toNat - 1) / s.cfgBaud.toNat + 1 < 2 ^ s.params.cntW →
        exec (.adrMirror b5 node) s = .next { s with
          txb := Memory.writeRange s.txb 0 frame
          txLen := BitVec.ofNat 9 (lge + 2)
          respCnt := (22 * s.params.tickHz + s.cfgBaud.toNat - 1) / s.cfgBaud.toNat + 1
          txState := .responseWait })

/-! Timers and the transmit scheduler. -/

/-- R95, R96, R97, R99: TICK (`0x30000000`) counts each running timer down by one; the residual expiry aborts the frame
with RESID_TIMEOUT, the response expiry emits TX_START with TXB[0..tx_len-1]; the arms are independent, and a stopped or a
faulted block is left as it is. -/
def Obligations.TickRunsBothArms : Prop :=
  decodeEvent 0x30000000 = .tick ∧
  ∀ (s : State) (reply : List Byte), Invariant s →
    (s.txState = .responseWait → Memory.readRange s.txb 0 s.txLen.toNat = some reply) →
      (s.fault = false → exec .tick s = .next { s with
        residCnt := if s.residArmed then s.residCnt - 1 else s.residCnt
        residArmed := if residExpires s then false else s.residArmed
        rxState := if residExpires s then .awaitStart else s.rxState
        bodyCount := if residExpires s then 0 else s.bodyCount
        lastResult := if residExpires s then .residTimeout else s.lastResult
        respCnt := if s.txState = .responseWait then s.respCnt - 1 else s.respCnt
        txState := if respExpires s then .sending else s.txState
        out := s.out ++ if respExpires s then [.txStart reply] else [] }) ∧
      (s.fault = true ∨ s.run = .stopped → exec .tick s = .next s)

/-- R100: TX_DONE (`0x40000000`) ends a transmission, in either `run` state, and has no effect in IDLE, RESPONSE_WAIT or
after a fault. -/
def Obligations.TxDoneEndsATransmission : Prop :=
  decodeEvent 0x40000000 = .txdone ∧
  ∀ s : State,
    (s.fault = false → s.txState = .sending → exec .txdone s = .next { s with txState := .idle }) ∧
    (s.fault = true ∨ s.txState ≠ .sending → exec .txdone s = .next s)

/-- R92: every load is at least 2, both grow as R92 says, and `resp_load <= resid_load(2)`; so where the load of
`MAX_LGE` fits in `CNT_W` bits, every load the block computes fits (R94, R105). -/
def Obligations.EveryLoadFitsWhereTheLargestDoes : Prop :=
  ∀ (P : Params) (B : Baud), P.Wf → B ≠ 0 →
    (∀ lge, 2 ≤ lge → 2 ≤ residLoadAt P B lge) ∧ 2 ≤ respLoadAt P B ∧
    (∀ l l', l ≤ l' → residLoadAt P B l ≤ residLoadAt P B l') ∧ respLoadAt P B ≤ residLoadAt P B 2 ∧
    (residLoadAt P B P.maxLge ≤ 2 ^ P.cntW - 1 →
      respLoadAt P B ≤ 2 ^ P.cntW - 1 ∧ ∀ lge, lge ≤ P.maxLge → residLoadAt P B lge ≤ 2 ^ P.cntW - 1)

/-- R93: the time of `load - 1` tick periods, after which a timer cannot expire earlier, is at least the protocol time
`1.5 * lge * 11 / B` or `2 * 11 / B`, and `load - 2` tick periods fall short of it (both sides multiplied out). -/
def Obligations.GuardTickKeepsTheProtocolTimes : Prop :=
  ∀ (P : Params) (B : Baud) (lge : Nat), P.Wf → B ≠ 0 → 2 ≤ lge →
    33 * lge * P.tickHz ≤ (residLoadAt P B lge - 1) * (2 * B.toNat) ∧
    (residLoadAt P B lge - 2) * (2 * B.toNat) < 33 * lge * P.tickHz ∧
    22 * P.tickHz ≤ (respLoadAt P B - 1) * B.toNat ∧
    (respLoadAt P B - 2) * B.toNat < 22 * P.tickHz

/-- R103(b), R96: a frame whose bytes stop arriving is aborted at exactly the TICK that brings `resid_cnt` to 0, with no
telegram; before it the block still waits in AWAIT_BODY, with the bytes it has captured. -/
def Obligations.StalledFrameIsAbortedAtTheLastTick : Prop :=
  ∀ (s : State) (n : Nat) (rest : List PortInput), Invariant s → s.fault = false → s.rxState = .awaitBody →
    n ≤ s.residCnt → s.port = tickInputs n ++ rest →
      ∃ t, core.run n s = .next t ∧ t.fault = false ∧ t.port = rest ∧ t.rxb = s.rxb ∧
        (n < s.residCnt → t.rxState = .awaitBody ∧ t.residCnt = s.residCnt - n ∧ t.bodyCount = s.bodyCount ∧
          t.lastResult = s.lastResult) ∧
        (n = s.residCnt → t.rxState = .awaitStart ∧ t.lastResult = .residTimeout ∧ t.residArmed = false) ∧
        ∃ new, t.trace ++ t.out = s.trace ++ s.out ++ new ∧ ∀ o ∈ new, ¬IsTelegram o

/-- R103(a), R97 to R99: after the last byte of a valid mirror request, TX_START with the very bytes of the request is
emitted at exactly the `resp_load`-th TICK, and at no earlier one. -/
def Obligations.MirrorReplyStartsAtTheLastTickOfTheDelay : Prop :=
  ∀ (s : State) (d : Byte) (frame : List Byte) (n : Nat) (rest : List PortInput),
    Invariant s → s.fault = false → completedFrame d s = some frame → validFrame frame →
    classify (adrOf frame) s.cfgNode = .mirror → s.txState = .idle → n ≤ respLoad s →
    s.port = .word (rxWord d) :: (tickInputs n ++ rest) →
      ∃ t, core.run (n + 1) s = .next t ∧ t.fault = false ∧ t.port = rest ∧
        (n < respLoad s → t.txState = .responseWait ∧ t.respCnt = respLoad s - n ∧
          t.trace ++ t.out = s.trace ++ s.out ++ anyRecord s.cfgEn (telegramOf frame)) ∧
        (n = respLoad s → t.txState = .sending ∧ t.out = [.txStart frame] ∧
          t.trace = s.trace ++ s.out ++ anyRecord s.cfgEn (telegramOf frame))

/-- R101: a reply that waits keeps its delay and its bytes under every instruction but TICK, START and STOP. -/
def Obligations.ResponseDelayIsFixed : Prop :=
  ∀ (i : Instr) (s t : State), exec i s = .next t → t.fault = false → s.txState = .responseWait →
    i ≠ .tick → i ≠ .stop → (∀ nd en, i ≠ .start nd en) →
      t.txState = .responseWait ∧ t.respCnt = s.respCnt ∧ t.txLen = s.txLen ∧
        ∀ a, Memory.read t.txb a = Memory.read s.txb a

/-- R39, R99, R100: TX_START comes from a TICK that ends a response delay and from nothing else, once, with the bytes
TXB[0..tx_len-1]; SENDING is entered by it alone and left by TX_DONE alone. -/
def Obligations.TransmissionsStartAndEndOnce : Prop :=
  ∀ (i : Instr) (s t : State), Invariant s → s.fault = false → exec i s = .next t → t.fault = false →
    ∃ new, t.out = s.out ++ new ∧
      ((s.txState = .responseWait ∧ t.txState = .sending ∧ i = .tick ∧
          ∃ reply, Memory.readRange s.txb 0 s.txLen.toNat = some reply ∧ new = [.txStart reply]) ∨
       ((∀ o ∈ new, ¬IsTxStart o) ∧ (t.txState = .sending → s.txState = .sending))) ∧
      (s.txState = .sending → t.txState ≠ .sending → i = .txdone)

/-- R102: reception does not depend on the transmit state: two states that differ in the transmitter alone take the same
character to the same receive state and emit the same records, unless one of them faults (a mirror request). -/
def Obligations.ReceptionIgnoresTheTransmitter : Prop :=
  ∀ (s t s' t' : State) (d : Byte) (tx : TxState) (m : Memory) (len : BitVec 9) (cnt : Nat),
    s' = { s with txState := tx, txb := m, txLen := len, respCnt := cnt } →
    exec (.rx d) s = .next t → exec (.rx d) s' = .next t' → t.fault = false → t'.fault = false →
      t'.rxState = t.rxState ∧ t'.rxb = t.rxb ∧ t'.bodyCount = t.bodyCount ∧ t'.residArmed = t.residArmed ∧
        t'.residCnt = t.residCnt ∧ t'.lastResult = t.lastResult ∧ t'.out = t.out

/-! Control. -/

/-- R104: SET_BAUD, with its encoding, writes `baud_stage` only, 0 included; nothing after a fault. -/
def Obligations.SetBaudStagesTheBaud : Prop :=
  ∀ (s : State) (b : Baud),
    decodeEvent (0x5#4 ++ 0#4 ++ b) = .baud b ∧
    (s.fault = false → exec (.baud b) s = .next { s with baudStage := b }) ∧
    (s.fault = true → exec (.baud b) s = .next s)

/-- R105: START and its encoding. CONFIG_INVALID when the staged baud is 0, or when the largest load does not fit in
`CNT_W` bits; else the configuration is latched, after everything STOP does where the block was running, and the receiver is in AWAIT_START.
Nothing happens after a fault. -/
def Obligations.StartLatchesTheConfiguration : Prop :=
  ∀ (s : State) (nd : Node) (en : Enables),
    decodeEvent (0x6#4 ++ 0#16 ++ en ++ 0#3 ++ nd) = .start nd en ∧
    (s.fault = true → exec (.start nd en) s = .next s) ∧
    (s.fault = false → s.baudStage = 0 → exec (.start nd en) s = .next (raiseFault .configInvalid s)) ∧
    (s.fault = false → s.baudStage ≠ 0 →
      2 ^ s.params.cntW - 1 <
        (33 * s.params.maxLge * s.params.tickHz + 2 * s.baudStage.toNat - 1) / (2 * s.baudStage.toNat) + 1 →
      exec (.start nd en) s = .next (raiseFault .configInvalid s)) ∧
    (s.fault = false → s.baudStage ≠ 0 →
      (33 * s.params.maxLge * s.params.tickHz + 2 * s.baudStage.toNat - 1) / (2 * s.baudStage.toNat) + 1 ≤
        2 ^ s.params.cntW - 1 →
      (s.run = .stopped →
        (Invariant s → s.rxState = .awaitStart) ∧
        exec (.start nd en) s = .next { s with
          cfgNode := nd, cfgEn := en, cfgBaud := s.baudStage, lastResult := .none, run := .running }) ∧
      (s.run = .running → exec (.start nd en) s = .next { s with
        cfgNode := nd, cfgEn := en, cfgBaud := s.baudStage, lastResult := .none, run := .running
        rxState := .awaitStart, bodyCount := 0, residArmed := false, residCnt := 0
        txState := if s.txState = .responseWait then .idle else s.txState
        respCnt := if s.txState = .responseWait then 0 else s.respCnt }))

/-- R106: STOP (`0x70000000`) quiesces the receiver and cancels a waiting reply; a transmission in SENDING goes on, and
`last_result` and the configuration stay. In a stopped block it changes nothing; nor does it after a fault. -/
def Obligations.StopQuiescesTheBlock : Prop :=
  decodeEvent 0x70000000 = .stop ∧
  ∀ s : State,
    (s.fault = false → exec .stop s = .next { s with
      run := .stopped, rxState := .awaitStart, bodyCount := 0, residArmed := false, residCnt := 0
      txState := if s.txState = .responseWait then .idle else s.txState
      respCnt := if s.txState = .responseWait then 0 else s.respCnt }) ∧
    (Invariant s → s.fault = true ∨ s.run = .stopped → exec .stop s = .next s)

/-- R107: an illegal word faults with ILLEGAL_EVENT, always, unless a fault is recorded already. -/
def Obligations.IllegalWordFaults : Prop :=
  decodeEvent 0 = .illegal 0 ∧ decodeEvent 0xFFFFFFFF = .illegal 0xFFFFFFFF ∧
  ∀ (s : State) (w : EventWord),
    (s.fault = false → exec (.illegal w) s = .next (raiseFault .illegalEvent s)) ∧
    (s.fault = true → exec (.illegal w) s = .next s)

/-! Faults. -/

/-- R110: a fault records itself and its cause, also in STATUS, and discards the step's records; while it stands every
event, legal or not, changes no element and emits nothing; `rst` leaves it. That the records of earlier steps stay is the
model's choice (log 3). -/
def Obligations.FaultIsAbsorbing : Prop :=
  (∀ (c : FaultCause) (s : State),
    (raiseFault c s).fault = true ∧ (raiseFault c s).faultCause = c ∧ (raiseFault c s).out = [] ∧
      (raiseFault c s).trace = s.trace ∧ (statusWord (raiseFault c s)).extractLsb' 8 3 = c.code ++ 1#1) ∧
  (∀ (i : Instr) (s : State), s.fault = true → exec i s = .next s) ∧
  (∀ (s : State) (w : EventWord) (rest : List PortInput), s.fault = true → s.port = .word w :: rest →
    step s = .next { s with port := rest, trace := s.trace ++ s.out, out := [] }) ∧
  (∀ (s : State) (rest : List PortInput), s.port = .rst :: rest → ∃ t, step s = .next t ∧ t.fault = false)

/-- R109: a legal run raises a fault under the conditions of R109 and no others, with the cause R109 gives. -/
def Obligations.FaultsAreRaisedExactlyAsListed : Prop :=
  ∀ (i : Instr) (s : State), Invariant s → s.fault = false →
    (∀ c, Raises i s c → exec i s = .next (raiseFault c s)) ∧
    (∀ t, exec i s = .next t → t.fault = true → ∃ c, Raises i s c)

/-! Invariants and frames. -/

/-- The reset state meets the invariant (R40), whatever the OPEN parameters are. -/
def Obligations.ResetStateMeetsTheInvariant : Prop := Invariant State.reset ∧ ∀ P : Params, P.Wf → Invariant (State.resetOf P)

/-- Every step keeps the invariant (R38, R39, R94). -/
def Obligations.EveryStepKeepsTheInvariant : Prop := ∀ s t : State, Invariant s → step s = .next t → Invariant t

/-- In a state that meets the invariant the model never stops: no buffer byte is read before it is written (R40), none
outside a buffer (R42), and no event is refused. -/
def Obligations.NoStepStopsUnderTheInvariant : Prop := ∀ s : State, Invariant s → ∃ t, step s = .next t

/-- R38: in every state reached from reset under any inputs, without a fault: the four facts of R38. No run stops. -/
def Obligations.ReachedStatesMeetTheReceiveInvariants : Prop :=
  ∀ (P : Params) (inputs : List PortInput) (n : Nat), P.Wf →
    ∃ t : State, core.run n ({ State.resetOf P with port := inputs } : State) = .next t ∧
      (t.fault = false →
        (t.rxState = .awaitBody ↔ t.residArmed = true) ∧
        (t.rxState ≠ .awaitStart → t.run = .running ∧ Memory.read t.rxb 0 = some 0x02) ∧
        (t.rxState = .awaitBody → ∃ lge, Memory.read t.rxb 1 = some lge ∧ 2 ≤ lge.toNat ∧ lge.toNat ≤ P.maxLge ∧
          t.bodyCount.toNat < lge.toNat) ∧
        (t.rxState ≠ .awaitBody → t.bodyCount = 0))

/-- What each instruction may write outside the receiver and the transmitter, in every state, where no fault is raised:
the configuration only by START, `baud_stage` only by SET_BAUD, `run` only by START and STOP, the fault record never
(R17, R26, R27, R28); the inputs, the trace, the parameters and the free-value counter, the model's own fields (log 1,
log 3, log 4, log 6), never; records are only added. -/
def Obligations.ConfigurationIsWrittenByControlEventsOnly : Prop :=
  ∀ (i : Instr) (s t : State), exec i s = .next t → t.fault = false →
    ((∀ nd en, i ≠ .start nd en) → t.cfgNode = s.cfgNode ∧ t.cfgEn = s.cfgEn ∧ t.cfgBaud = s.cfgBaud) ∧
    ((∀ b, i ≠ .baud b) → t.baudStage = s.baudStage) ∧
    (i ≠ .stop → (∀ nd en, i ≠ .start nd en) → t.run = s.run) ∧
    s.fault = false ∧ t.faultCause = s.faultCause ∧ t.params = s.params ∧ t.port = s.port ∧ t.trace = s.trace ∧
    t.freeCtr = s.freeCtr ∧ ∃ new, t.out = s.out ++ new

/-- The frame of RXB (R48a), in every state, where no fault is raised: RX_CHAR stores its byte at the index of R72, R73
or R75 and leaves every other byte; every other instruction leaves all of RXB. -/
def Obligations.OnlyReceivedCharactersWriteRxb : Prop :=
  ∀ (i : Instr) (s t : State), exec i s = .next t → t.fault = false →
    (∀ d, i = .rx d →
      (∀ j, rxStoreIndex d s = some j → Memory.read t.rxb j = some d) ∧
      (∀ a, rxStoreIndex d s ≠ some a → Memory.read t.rxb a = Memory.read s.rxb a)) ∧
    ((∀ d, i ≠ .rx d) → ∀ a, Memory.read t.rxb a = Memory.read s.rxb a)

/-- The frame of TXB (R48c, R51), where no fault is raised: a byte of TXB changes only when the transmitter is idle, only
under the mirror action of RX_CHAR's last byte or of the ADR row, and only at the indices 0..lge+1 of the frame;
`tx_len` changes with it alone. -/
def Obligations.OnlyTheMirrorActionWritesTxb : Prop :=
  ∀ (i : Instr) (s t : State), Invariant s → s.fault = false → exec i s = .next t → t.fault = false →
    ((∃ b5 node, i = .adrMirror b5 node) ∨
      ∃ d frame, i = .rx d ∧ completedFrame d s = some frame ∧ validFrame frame ∧
        classify (adrOf frame) s.cfgNode = .mirror) ∧ s.txState = .idle ∧
      (∀ a, lgeOf s + 2 ≤ a → Memory.read t.txb a = Memory.read s.txb a) ∨
    t.txLen = s.txLen ∧ ∀ a, Memory.read t.txb a = Memory.read s.txb a

/-- R32: `last_result` is written by START, by RX_CHAR at a rejected length or a completed frame, by RX_ERR in a frame
and by the TICK of a residual expiry, and by nothing else. -/
def Obligations.LastResultIsWrittenAtTheEndOfAFrameAttempt : Prop :=
  ∀ (i : Instr) (s t : State), Invariant s → s.fault = false → exec i s = .next t → t.fault = false →
    t.lastResult = s.lastResult ∨
    (∃ nd en, i = .start nd en ∧ t.lastResult = .none) ∨
    (∃ d frame, i = .rx d ∧ completedFrame d s = some frame ∧
      (validFrame frame ∧ t.lastResult = .ok ∨ ¬validFrame frame ∧ t.lastResult = .bccMismatch)) ∨
    (∃ d, i = .rx d ∧ s.rxState = .awaitLength ∧ (d.toNat < 2 ∨ s.params.maxLge < d.toNat) ∧
      t.lastResult = .lenReject) ∨
    (∃ k, i = .err k ∧ s.rxState ≠ .awaitStart ∧ t.lastResult = .lineError) ∨
    (i = .tick ∧ residExpires s = true ∧ t.lastResult = .residTimeout)

/-- The canonical form of the buffers (R41, R42): every instruction keeps both buffers in it, in every state in which
they have it. -/
def Obligations.BuffersKeepTheirForm : Prop :=
  ∀ (i : Instr) (s t : State), exec i s = .next t →
    Memory.wf s.params.bufBytes s.rxb = true → Memory.wf s.params.bufBytes s.txb = true →
      Memory.wf t.params.bufBytes t.rxb = true ∧ Memory.wf t.params.bufBytes t.txb = true
end

