-- ==== Sys2Proof/Laws/Memory.lean ====
section
/-! SUPPORT. The laws of a frame buffer: read after write, the canonical form every write keeps, and ranges. -/

namespace Sys2Proof.Machine

theorem Memory.wf_nil (size : Nat) : Memory.wf size [] = true := rfl

theorem Memory.read_write_same (m : Memory) (i : Nat) (v : Byte) : Memory.read (Memory.write m i v) i = some v := by
  induction m with
  | nil => simp [Memory.write, Memory.read]
  | cons c m ih =>
    simp only [Memory.write]
    split
    · simp [Memory.read]
    · split
      · simp [Memory.read]
      · rename_i h
        simp [Memory.read, h, ih]

theorem Memory.read_write_ne (m : Memory) {i j : Nat} (v : Byte) (h : i ≠ j) :
    Memory.read (Memory.write m i v) j = Memory.read m j := by
  induction m with
  | nil => simp [Memory.write, Memory.read, h]
  | cons c m ih =>
    simp only [Memory.write]
    split
    · simp [Memory.read, h]
    · split
      · rename_i hc
        simp [Memory.read, h, hc]
      · simp [Memory.read, ih]

/-- What a write can list: the new index, or an index listed before. -/
theorem Memory.mem_write {m : Memory} {i : Nat} {v : Byte} {c : Host.Cell} (h : c ∈ Memory.write m i v) :
    c.1 = i ∨ c ∈ m := by
  induction m with
  | nil => simp_all [Memory.write]
  | cons d m ih =>
    simp only [Memory.write] at h
    split at h
    · rcases List.mem_cons.mp h with rfl | h
      · exact .inl rfl
      · exact .inr h
    · split at h
      · rcases List.mem_cons.mp h with rfl | h
        · exact .inl rfl
        · exact .inr (List.mem_cons_of_mem _ h)
      · rcases List.mem_cons.mp h with rfl | h
        · exact .inr (List.mem_cons_self ..)
        · exact (ih h).imp id (List.mem_cons_of_mem _)

theorem Memory.rising_write {m : Memory} (h : Memory.rising m = true) (i : Nat) (v : Byte) :
    Memory.rising (Memory.write m i v) = true := by
  induction m with
  | nil => rfl
  | cons c m ih =>
    simp only [Memory.rising, Bool.and_eq_true, List.all_eq_true, decide_eq_true_eq] at h ih ⊢
    obtain ⟨hc, hm⟩ := h
    simp only [Memory.write]
    split
    · rename_i hi
      simp only [Memory.rising, Bool.and_eq_true, List.all_eq_true, decide_eq_true_eq]
      refine ⟨fun d hd => ?_, hc, hm⟩
      rcases List.mem_cons.mp hd with rfl | hd
      · exact hi
      · exact hi.trans (hc d hd)
    · split
      · rename_i hi
        subst hi
        simpa [Memory.rising] using And.intro hc hm
      · rename_i h1 h2
        simp only [Memory.rising, Bool.and_eq_true, List.all_eq_true, decide_eq_true_eq]
        refine ⟨fun d hd => ?_, ih hm⟩
        rcases Memory.mem_write hd with rfl | hd
        · omega
        · exact hc d hd

/-- Every write inside the buffer keeps the canonical form. -/
theorem Memory.wf_write {size : Nat} {m : Memory} (h : Memory.wf size m = true) {i : Nat} (hi : i < size) (v : Byte) :
    Memory.wf size (Memory.write m i v) = true := by
  simp only [Memory.wf, Bool.and_eq_true, List.all_eq_true, decide_eq_true_eq] at h ⊢
  refine ⟨Memory.rising_write h.1 i v, fun c hc => ?_⟩
  rcases Memory.mem_write hc with rfl | hc
  · exact hi
  · exact h.2 c hc

theorem Memory.wf_writeRange {size : Nat} (bs : List Byte) {m : Memory} (h : Memory.wf size m = true) {a : Nat}
    (ha : a + bs.length ≤ size) : Memory.wf size (Memory.writeRange m a bs) = true := by
  induction bs generalizing m a with
  | nil => exact h
  | cons b bs ih =>
    simp only [List.length_cons] at ha
    exact ih (Memory.wf_write h (by omega) b) (by omega)

theorem Memory.read_writeRange_outside (bs : List Byte) (m : Memory) {a i : Nat} (h : i < a ∨ a + bs.length ≤ i) :
    Memory.read (Memory.writeRange m a bs) i = Memory.read m i := by
  induction bs generalizing m a with
  | nil => rfl
  | cons b bs ih =>
    simp only [List.length_cons] at h
    rw [Memory.writeRange, ih _ (by omega), Memory.read_write_ne _ _ (by omega)]

theorem Memory.readRange_succ_some {m : Memory} {a n : Nat} {bs : List Byte} :
    Memory.readRange m a (n + 1) = some bs ↔
      ∃ b bs', Memory.read m a = some b ∧ Memory.readRange m (a + 1) n = some bs' ∧ bs = b :: bs' := by
  simp only [Memory.readRange]
  cases Memory.read m a <;> cases Memory.readRange m (a + 1) n <;> simp [eq_comm]

theorem Memory.readRange_length {m : Memory} {a n : Nat} {bs : List Byte}
    (h : Memory.readRange m a n = some bs) : bs.length = n := by
  induction n generalizing a bs with
  | zero => simp_all [Memory.readRange]
  | succ n ih =>
    obtain ⟨b, bs', -, hr, rfl⟩ := Memory.readRange_succ_some.mp h
    simp [ih hr]

/-- Two buffers that read alike on a range have the same range. -/
theorem Memory.readRange_congr {m m' : Memory} {a n : Nat}
    (h : ∀ i, a ≤ i → i < a + n → Memory.read m i = Memory.read m' i) :
    Memory.readRange m a n = Memory.readRange m' a n := by
  induction n generalizing a with
  | zero => rfl
  | succ n ih =>
    simp only [Memory.readRange]
    rw [h a (le_refl a) (by omega), ih fun i h1 h2 => h i (by omega) (by omega)]

theorem Memory.readRange_write_outside (m : Memory) {a n i : Nat} (v : Byte) (h : i < a ∨ a + n ≤ i) :
    Memory.readRange (Memory.write m i v) a n = Memory.readRange m a n :=
  Memory.readRange_congr fun _ h1 h2 => Memory.read_write_ne m v (by omega)

theorem Memory.readRange_add {m : Memory} {a n k : Nat} :
    Memory.readRange m a (n + k) =
      (Memory.readRange m a n).bind fun bs => (Memory.readRange m (a + n) k).map (bs ++ ·) := by
  induction n generalizing a with
  | zero => simp [Memory.readRange]
  | succ n ih =>
    rw [show n + 1 + k = n + k + 1 by omega]
    simp only [Memory.readRange]
    rw [ih, show a + (n + 1) = a + 1 + n by omega]
    cases Memory.read m a <;> cases Memory.readRange m (a + 1) n <;> cases Memory.readRange m (a + 1 + n) k <;> rfl

/-- A range that is written, one byte further, is written when that byte is. -/
theorem Memory.readRange_snoc {m : Memory} {a n : Nat} {bs : List Byte} {b : Byte}
    (h : Memory.readRange m a n = some bs) (hb : Memory.read m (a + n) = some b) :
    Memory.readRange m a (n + 1) = some (bs ++ [b]) := by
  rw [Memory.readRange_add, h]
  simp [Memory.readRange, hb]

/-- The byte at a place of a range that was read. -/
theorem Memory.read_of_readRange {m : Memory} {a n : Nat} {bs : List Byte} (h : Memory.readRange m a n = some bs)
    {i : Nat} (hi : i < n) : Memory.read m (a + i) = bs[i]? := by
  induction n generalizing a bs i with
  | zero => omega
  | succ n ih =>
    obtain ⟨b, bs', hb, hr, rfl⟩ := Memory.readRange_succ_some.mp h
    cases i with
    | zero => simpa using hb
    | succ i =>
      rw [show a + (i + 1) = a + 1 + i by omega, ih hr (by omega)]
      simp

/-- A part of a range that was read. -/
theorem Memory.readRange_sub {m : Memory} {a n : Nat} {bs : List Byte} (h : Memory.readRange m a n = some bs)
    {k l : Nat} (hk : k + l ≤ n) : Memory.readRange m (a + k) l = some ((bs.drop k).take l) := by
  obtain ⟨r, rfl⟩ := Nat.exists_eq_add_of_le hk
  rw [Nat.add_assoc, Memory.readRange_add] at h
  obtain ⟨bs₁, h₁, h⟩ := Option.bind_eq_some_iff.mp h
  obtain ⟨bs₂, h₂, rfl⟩ := Option.map_eq_some_iff.mp h
  rw [Memory.readRange_add] at h₂
  obtain ⟨bs₃, h₃, h₂⟩ := Option.bind_eq_some_iff.mp h₂
  obtain ⟨bs₄, -, rfl⟩ := Option.map_eq_some_iff.mp h₂
  have e1 := Memory.readRange_length h₁
  have e3 := Memory.readRange_length h₃
  rw [h₃, List.drop_left' e1, List.take_left' e3]

/-- Bytes written in a range are read back. -/
theorem Memory.readRange_writeRange_same (bs : List Byte) (m : Memory) (a : Nat) :
    Memory.readRange (Memory.writeRange m a bs) a bs.length = some bs := by
  induction bs generalizing m a with
  | nil => rfl
  | cons b bs ih =>
    refine Memory.readRange_succ_some.mpr ⟨b, bs, ?_, ih _ _, rfl⟩
    rw [Memory.writeRange, Memory.read_writeRange_outside _ _ (.inl (by omega)), Memory.read_write_same]

end Sys2Proof.Machine
end

