-- ==== Sys2Proof/Laws/State.lean ====
section
/-! SUPPORT. One lemma for each field and each named update of the state, so that no proof unfolds a record update. -/

namespace Sys2Proof.Machine

@[simp] theorem emit_run (o : OutRec) (s : State) : (emit o s).run = s.run := rfl
@[simp] theorem emit_rxState (o : OutRec) (s : State) : (emit o s).rxState = s.rxState := rfl
@[simp] theorem emit_rxb (o : OutRec) (s : State) : (emit o s).rxb = s.rxb := rfl
@[simp] theorem emit_bodyCount (o : OutRec) (s : State) : (emit o s).bodyCount = s.bodyCount := rfl
@[simp] theorem emit_residArmed (o : OutRec) (s : State) : (emit o s).residArmed = s.residArmed := rfl
@[simp] theorem emit_residCnt (o : OutRec) (s : State) : (emit o s).residCnt = s.residCnt := rfl
@[simp] theorem emit_txState (o : OutRec) (s : State) : (emit o s).txState = s.txState := rfl
@[simp] theorem emit_txb (o : OutRec) (s : State) : (emit o s).txb = s.txb := rfl
@[simp] theorem emit_txLen (o : OutRec) (s : State) : (emit o s).txLen = s.txLen := rfl
@[simp] theorem emit_respCnt (o : OutRec) (s : State) : (emit o s).respCnt = s.respCnt := rfl
@[simp] theorem emit_lastResult (o : OutRec) (s : State) : (emit o s).lastResult = s.lastResult := rfl
@[simp] theorem emit_fault (o : OutRec) (s : State) : (emit o s).fault = s.fault := rfl
@[simp] theorem emit_faultCause (o : OutRec) (s : State) : (emit o s).faultCause = s.faultCause := rfl
@[simp] theorem emit_cfgNode (o : OutRec) (s : State) : (emit o s).cfgNode = s.cfgNode := rfl
@[simp] theorem emit_cfgEn (o : OutRec) (s : State) : (emit o s).cfgEn = s.cfgEn := rfl
@[simp] theorem emit_cfgBaud (o : OutRec) (s : State) : (emit o s).cfgBaud = s.cfgBaud := rfl
@[simp] theorem emit_baudStage (o : OutRec) (s : State) : (emit o s).baudStage = s.baudStage := rfl
@[simp] theorem emit_params (o : OutRec) (s : State) : (emit o s).params = s.params := rfl
@[simp] theorem emit_port (o : OutRec) (s : State) : (emit o s).port = s.port := rfl
@[simp] theorem emit_out (o : OutRec) (s : State) : (emit o s).out = s.out ++ [o] := rfl
@[simp] theorem emit_trace (o : OutRec) (s : State) : (emit o s).trace = s.trace := rfl
@[simp] theorem emit_freeCtr (o : OutRec) (s : State) : (emit o s).freeCtr = s.freeCtr := rfl

@[simp] theorem setLastResult_run (r : LastResult) (s : State) : (setLastResult r s).run = s.run := rfl
@[simp] theorem setLastResult_rxState (r : LastResult) (s : State) : (setLastResult r s).rxState = s.rxState := rfl
@[simp] theorem setLastResult_rxb (r : LastResult) (s : State) : (setLastResult r s).rxb = s.rxb := rfl
@[simp] theorem setLastResult_bodyCount (r : LastResult) (s : State) : (setLastResult r s).bodyCount = s.bodyCount := rfl
@[simp] theorem setLastResult_residArmed (r : LastResult) (s : State) : (setLastResult r s).residArmed = s.residArmed := rfl
@[simp] theorem setLastResult_residCnt (r : LastResult) (s : State) : (setLastResult r s).residCnt = s.residCnt := rfl
@[simp] theorem setLastResult_txState (r : LastResult) (s : State) : (setLastResult r s).txState = s.txState := rfl
@[simp] theorem setLastResult_txb (r : LastResult) (s : State) : (setLastResult r s).txb = s.txb := rfl
@[simp] theorem setLastResult_txLen (r : LastResult) (s : State) : (setLastResult r s).txLen = s.txLen := rfl
@[simp] theorem setLastResult_respCnt (r : LastResult) (s : State) : (setLastResult r s).respCnt = s.respCnt := rfl
@[simp] theorem setLastResult_lastResult (r : LastResult) (s : State) : (setLastResult r s).lastResult = r := rfl
@[simp] theorem setLastResult_fault (r : LastResult) (s : State) : (setLastResult r s).fault = s.fault := rfl
@[simp] theorem setLastResult_faultCause (r : LastResult) (s : State) : (setLastResult r s).faultCause = s.faultCause := rfl
@[simp] theorem setLastResult_cfgNode (r : LastResult) (s : State) : (setLastResult r s).cfgNode = s.cfgNode := rfl
@[simp] theorem setLastResult_cfgEn (r : LastResult) (s : State) : (setLastResult r s).cfgEn = s.cfgEn := rfl
@[simp] theorem setLastResult_cfgBaud (r : LastResult) (s : State) : (setLastResult r s).cfgBaud = s.cfgBaud := rfl
@[simp] theorem setLastResult_baudStage (r : LastResult) (s : State) : (setLastResult r s).baudStage = s.baudStage := rfl
@[simp] theorem setLastResult_params (r : LastResult) (s : State) : (setLastResult r s).params = s.params := rfl
@[simp] theorem setLastResult_port (r : LastResult) (s : State) : (setLastResult r s).port = s.port := rfl
@[simp] theorem setLastResult_out (r : LastResult) (s : State) : (setLastResult r s).out = s.out := rfl
@[simp] theorem setLastResult_trace (r : LastResult) (s : State) : (setLastResult r s).trace = s.trace := rfl
@[simp] theorem setLastResult_freeCtr (r : LastResult) (s : State) : (setLastResult r s).freeCtr = s.freeCtr := rfl

@[simp] theorem returnToStart_run (s : State) : (returnToStart s).run = s.run := rfl
@[simp] theorem returnToStart_rxState (s : State) : (returnToStart s).rxState = .awaitStart := rfl
@[simp] theorem returnToStart_rxb (s : State) : (returnToStart s).rxb = s.rxb := rfl
@[simp] theorem returnToStart_bodyCount (s : State) : (returnToStart s).bodyCount = 0 := rfl
@[simp] theorem returnToStart_residArmed (s : State) : (returnToStart s).residArmed = false := rfl
@[simp] theorem returnToStart_residCnt (s : State) : (returnToStart s).residCnt = 0 := rfl
@[simp] theorem returnToStart_txState (s : State) : (returnToStart s).txState = s.txState := rfl
@[simp] theorem returnToStart_txb (s : State) : (returnToStart s).txb = s.txb := rfl
@[simp] theorem returnToStart_txLen (s : State) : (returnToStart s).txLen = s.txLen := rfl
@[simp] theorem returnToStart_respCnt (s : State) : (returnToStart s).respCnt = s.respCnt := rfl
@[simp] theorem returnToStart_lastResult (s : State) : (returnToStart s).lastResult = s.lastResult := rfl
@[simp] theorem returnToStart_fault (s : State) : (returnToStart s).fault = s.fault := rfl
@[simp] theorem returnToStart_faultCause (s : State) : (returnToStart s).faultCause = s.faultCause := rfl
@[simp] theorem returnToStart_cfgNode (s : State) : (returnToStart s).cfgNode = s.cfgNode := rfl
@[simp] theorem returnToStart_cfgEn (s : State) : (returnToStart s).cfgEn = s.cfgEn := rfl
@[simp] theorem returnToStart_cfgBaud (s : State) : (returnToStart s).cfgBaud = s.cfgBaud := rfl
@[simp] theorem returnToStart_baudStage (s : State) : (returnToStart s).baudStage = s.baudStage := rfl
@[simp] theorem returnToStart_params (s : State) : (returnToStart s).params = s.params := rfl
@[simp] theorem returnToStart_port (s : State) : (returnToStart s).port = s.port := rfl
@[simp] theorem returnToStart_out (s : State) : (returnToStart s).out = s.out := rfl
@[simp] theorem returnToStart_trace (s : State) : (returnToStart s).trace = s.trace := rfl
@[simp] theorem returnToStart_freeCtr (s : State) : (returnToStart s).freeCtr = s.freeCtr := rfl

@[simp] theorem schedule_run (s : State) : (schedule s).run = s.run := rfl
@[simp] theorem schedule_rxState (s : State) : (schedule s).rxState = s.rxState := rfl
@[simp] theorem schedule_rxb (s : State) : (schedule s).rxb = s.rxb := rfl
@[simp] theorem schedule_bodyCount (s : State) : (schedule s).bodyCount = s.bodyCount := rfl
@[simp] theorem schedule_residArmed (s : State) : (schedule s).residArmed = s.residArmed := rfl
@[simp] theorem schedule_residCnt (s : State) : (schedule s).residCnt = s.residCnt := rfl
@[simp] theorem schedule_txState (s : State) : (schedule s).txState = .responseWait := rfl
@[simp] theorem schedule_txb (s : State) : (schedule s).txb = s.txb := rfl
@[simp] theorem schedule_txLen (s : State) : (schedule s).txLen = s.txLen := rfl
@[simp] theorem schedule_respCnt (s : State) : (schedule s).respCnt = toCnt s.params (respLoad s) := rfl
@[simp] theorem schedule_lastResult (s : State) : (schedule s).lastResult = s.lastResult := rfl
@[simp] theorem schedule_fault (s : State) : (schedule s).fault = s.fault := rfl
@[simp] theorem schedule_faultCause (s : State) : (schedule s).faultCause = s.faultCause := rfl
@[simp] theorem schedule_cfgNode (s : State) : (schedule s).cfgNode = s.cfgNode := rfl
@[simp] theorem schedule_cfgEn (s : State) : (schedule s).cfgEn = s.cfgEn := rfl
@[simp] theorem schedule_cfgBaud (s : State) : (schedule s).cfgBaud = s.cfgBaud := rfl
@[simp] theorem schedule_baudStage (s : State) : (schedule s).baudStage = s.baudStage := rfl
@[simp] theorem schedule_params (s : State) : (schedule s).params = s.params := rfl
@[simp] theorem schedule_port (s : State) : (schedule s).port = s.port := rfl
@[simp] theorem schedule_out (s : State) : (schedule s).out = s.out := rfl
@[simp] theorem schedule_trace (s : State) : (schedule s).trace = s.trace := rfl
@[simp] theorem schedule_freeCtr (s : State) : (schedule s).freeCtr = s.freeCtr := rfl

@[simp] theorem beginStep_run (rest : List PortInput) (s : State) : (beginStep rest s).run = s.run := rfl
@[simp] theorem beginStep_rxState (rest : List PortInput) (s : State) : (beginStep rest s).rxState = s.rxState := rfl
@[simp] theorem beginStep_rxb (rest : List PortInput) (s : State) : (beginStep rest s).rxb = s.rxb := rfl
@[simp] theorem beginStep_bodyCount (rest : List PortInput) (s : State) : (beginStep rest s).bodyCount = s.bodyCount := rfl
@[simp] theorem beginStep_residArmed (rest : List PortInput) (s : State) : (beginStep rest s).residArmed = s.residArmed := rfl
@[simp] theorem beginStep_residCnt (rest : List PortInput) (s : State) : (beginStep rest s).residCnt = s.residCnt := rfl
@[simp] theorem beginStep_txState (rest : List PortInput) (s : State) : (beginStep rest s).txState = s.txState := rfl
@[simp] theorem beginStep_txb (rest : List PortInput) (s : State) : (beginStep rest s).txb = s.txb := rfl
@[simp] theorem beginStep_txLen (rest : List PortInput) (s : State) : (beginStep rest s).txLen = s.txLen := rfl
@[simp] theorem beginStep_respCnt (rest : List PortInput) (s : State) : (beginStep rest s).respCnt = s.respCnt := rfl
@[simp] theorem beginStep_lastResult (rest : List PortInput) (s : State) : (beginStep rest s).lastResult = s.lastResult := rfl
@[simp] theorem beginStep_fault (rest : List PortInput) (s : State) : (beginStep rest s).fault = s.fault := rfl
@[simp] theorem beginStep_faultCause (rest : List PortInput) (s : State) : (beginStep rest s).faultCause = s.faultCause := rfl
@[simp] theorem beginStep_cfgNode (rest : List PortInput) (s : State) : (beginStep rest s).cfgNode = s.cfgNode := rfl
@[simp] theorem beginStep_cfgEn (rest : List PortInput) (s : State) : (beginStep rest s).cfgEn = s.cfgEn := rfl
@[simp] theorem beginStep_cfgBaud (rest : List PortInput) (s : State) : (beginStep rest s).cfgBaud = s.cfgBaud := rfl
@[simp] theorem beginStep_baudStage (rest : List PortInput) (s : State) : (beginStep rest s).baudStage = s.baudStage := rfl
@[simp] theorem beginStep_params (rest : List PortInput) (s : State) : (beginStep rest s).params = s.params := rfl
@[simp] theorem beginStep_port (rest : List PortInput) (s : State) : (beginStep rest s).port = rest := rfl
@[simp] theorem beginStep_out (rest : List PortInput) (s : State) : (beginStep rest s).out = [] := rfl
@[simp] theorem beginStep_trace (rest : List PortInput) (s : State) : (beginStep rest s).trace = s.trace ++ s.out := rfl
@[simp] theorem beginStep_freeCtr (rest : List PortInput) (s : State) : (beginStep rest s).freeCtr = s.freeCtr := rfl

@[simp] theorem presentWord_run (w : EventWord) (s : State) : (presentWord w s).run = s.run := rfl
@[simp] theorem presentWord_rxState (w : EventWord) (s : State) : (presentWord w s).rxState = s.rxState := rfl
@[simp] theorem presentWord_rxb (w : EventWord) (s : State) : (presentWord w s).rxb = s.rxb := rfl
@[simp] theorem presentWord_bodyCount (w : EventWord) (s : State) : (presentWord w s).bodyCount = s.bodyCount := rfl
@[simp] theorem presentWord_residArmed (w : EventWord) (s : State) : (presentWord w s).residArmed = s.residArmed := rfl
@[simp] theorem presentWord_residCnt (w : EventWord) (s : State) : (presentWord w s).residCnt = s.residCnt := rfl
@[simp] theorem presentWord_txState (w : EventWord) (s : State) : (presentWord w s).txState = s.txState := rfl
@[simp] theorem presentWord_txb (w : EventWord) (s : State) : (presentWord w s).txb = s.txb := rfl
@[simp] theorem presentWord_txLen (w : EventWord) (s : State) : (presentWord w s).txLen = s.txLen := rfl
@[simp] theorem presentWord_respCnt (w : EventWord) (s : State) : (presentWord w s).respCnt = s.respCnt := rfl
@[simp] theorem presentWord_lastResult (w : EventWord) (s : State) : (presentWord w s).lastResult = s.lastResult := rfl
@[simp] theorem presentWord_fault (w : EventWord) (s : State) : (presentWord w s).fault = s.fault := rfl
@[simp] theorem presentWord_faultCause (w : EventWord) (s : State) : (presentWord w s).faultCause = s.faultCause := rfl
@[simp] theorem presentWord_cfgNode (w : EventWord) (s : State) : (presentWord w s).cfgNode = s.cfgNode := rfl
@[simp] theorem presentWord_cfgEn (w : EventWord) (s : State) : (presentWord w s).cfgEn = s.cfgEn := rfl
@[simp] theorem presentWord_cfgBaud (w : EventWord) (s : State) : (presentWord w s).cfgBaud = s.cfgBaud := rfl
@[simp] theorem presentWord_baudStage (w : EventWord) (s : State) : (presentWord w s).baudStage = s.baudStage := rfl
@[simp] theorem presentWord_params (w : EventWord) (s : State) : (presentWord w s).params = s.params := rfl
@[simp] theorem presentWord_port (w : EventWord) (s : State) : (presentWord w s).port = .word w :: s.port := rfl
@[simp] theorem presentWord_out (w : EventWord) (s : State) : (presentWord w s).out = s.out := rfl
@[simp] theorem presentWord_trace (w : EventWord) (s : State) : (presentWord w s).trace = s.trace := rfl
@[simp] theorem presentWord_freeCtr (w : EventWord) (s : State) : (presentWord w s).freeCtr = s.freeCtr := rfl

@[simp] theorem raiseFault_fault (c : FaultCause) (s : State) : (raiseFault c s).fault = true := rfl
@[simp] theorem raiseFault_faultCause (c : FaultCause) (s : State) : (raiseFault c s).faultCause = c := rfl
@[simp] theorem raiseFault_rxb (c : FaultCause) (s : State) : (raiseFault c s).rxb = [] := rfl
@[simp] theorem raiseFault_txb (c : FaultCause) (s : State) : (raiseFault c s).txb = [] := rfl
@[simp] theorem raiseFault_out (c : FaultCause) (s : State) : (raiseFault c s).out = [] := rfl
@[simp] theorem raiseFault_params (c : FaultCause) (s : State) : (raiseFault c s).params = s.params := rfl
@[simp] theorem raiseFault_port (c : FaultCause) (s : State) : (raiseFault c s).port = s.port := rfl
@[simp] theorem raiseFault_trace (c : FaultCause) (s : State) : (raiseFault c s).trace = s.trace := rfl
@[simp] theorem raiseFault_freeCtr (c : FaultCause) (s : State) : (raiseFault c s).freeCtr = s.freeCtr + 1 := rfl

@[simp] theorem assertReset_run (rest : List PortInput) (s : State) : (assertReset rest s).run = (State.resetOf s.params).run := rfl
@[simp] theorem assertReset_rxState (rest : List PortInput) (s : State) : (assertReset rest s).rxState = (State.resetOf s.params).rxState := rfl
@[simp] theorem assertReset_rxb (rest : List PortInput) (s : State) : (assertReset rest s).rxb = (State.resetOf s.params).rxb := rfl
@[simp] theorem assertReset_bodyCount (rest : List PortInput) (s : State) : (assertReset rest s).bodyCount = (State.resetOf s.params).bodyCount := rfl
@[simp] theorem assertReset_residArmed (rest : List PortInput) (s : State) : (assertReset rest s).residArmed = (State.resetOf s.params).residArmed := rfl
@[simp] theorem assertReset_residCnt (rest : List PortInput) (s : State) : (assertReset rest s).residCnt = (State.resetOf s.params).residCnt := rfl
@[simp] theorem assertReset_txState (rest : List PortInput) (s : State) : (assertReset rest s).txState = (State.resetOf s.params).txState := rfl
@[simp] theorem assertReset_txb (rest : List PortInput) (s : State) : (assertReset rest s).txb = (State.resetOf s.params).txb := rfl
@[simp] theorem assertReset_txLen (rest : List PortInput) (s : State) : (assertReset rest s).txLen = (State.resetOf s.params).txLen := rfl
@[simp] theorem assertReset_respCnt (rest : List PortInput) (s : State) : (assertReset rest s).respCnt = (State.resetOf s.params).respCnt := rfl
@[simp] theorem assertReset_lastResult (rest : List PortInput) (s : State) : (assertReset rest s).lastResult = (State.resetOf s.params).lastResult := rfl
@[simp] theorem assertReset_fault (rest : List PortInput) (s : State) : (assertReset rest s).fault = (State.resetOf s.params).fault := rfl
@[simp] theorem assertReset_faultCause (rest : List PortInput) (s : State) : (assertReset rest s).faultCause = (State.resetOf s.params).faultCause := rfl
@[simp] theorem assertReset_cfgNode (rest : List PortInput) (s : State) : (assertReset rest s).cfgNode = (State.resetOf s.params).cfgNode := rfl
@[simp] theorem assertReset_cfgEn (rest : List PortInput) (s : State) : (assertReset rest s).cfgEn = (State.resetOf s.params).cfgEn := rfl
@[simp] theorem assertReset_cfgBaud (rest : List PortInput) (s : State) : (assertReset rest s).cfgBaud = (State.resetOf s.params).cfgBaud := rfl
@[simp] theorem assertReset_baudStage (rest : List PortInput) (s : State) : (assertReset rest s).baudStage = (State.resetOf s.params).baudStage := rfl
@[simp] theorem assertReset_params (rest : List PortInput) (s : State) : (assertReset rest s).params = s.params := rfl
@[simp] theorem assertReset_port (rest : List PortInput) (s : State) : (assertReset rest s).port = rest := rfl
@[simp] theorem assertReset_out (rest : List PortInput) (s : State) : (assertReset rest s).out = (State.resetOf s.params).out := rfl
@[simp] theorem assertReset_trace (rest : List PortInput) (s : State) : (assertReset rest s).trace = s.trace ++ s.out := rfl
@[simp] theorem assertReset_freeCtr (rest : List PortInput) (s : State) : (assertReset rest s).freeCtr = s.freeCtr := rfl

@[simp] theorem stopActions_run (s : State) : (stopActions s).run = .stopped := rfl
@[simp] theorem stopActions_rxState (s : State) : (stopActions s).rxState = .awaitStart := rfl
@[simp] theorem stopActions_rxb (s : State) : (stopActions s).rxb = s.rxb := rfl
@[simp] theorem stopActions_bodyCount (s : State) : (stopActions s).bodyCount = 0 := rfl
@[simp] theorem stopActions_residArmed (s : State) : (stopActions s).residArmed = false := rfl
@[simp] theorem stopActions_residCnt (s : State) : (stopActions s).residCnt = 0 := rfl
@[simp] theorem stopActions_txState (s : State) : (stopActions s).txState = if s.txState = .responseWait then .idle else s.txState := rfl
@[simp] theorem stopActions_txb (s : State) : (stopActions s).txb = s.txb := rfl
@[simp] theorem stopActions_txLen (s : State) : (stopActions s).txLen = s.txLen := rfl
@[simp] theorem stopActions_respCnt (s : State) : (stopActions s).respCnt = if s.txState = .responseWait then 0 else s.respCnt := rfl
@[simp] theorem stopActions_lastResult (s : State) : (stopActions s).lastResult = s.lastResult := rfl
@[simp] theorem stopActions_fault (s : State) : (stopActions s).fault = s.fault := rfl
@[simp] theorem stopActions_faultCause (s : State) : (stopActions s).faultCause = s.faultCause := rfl
@[simp] theorem stopActions_cfgNode (s : State) : (stopActions s).cfgNode = s.cfgNode := rfl
@[simp] theorem stopActions_cfgEn (s : State) : (stopActions s).cfgEn = s.cfgEn := rfl
@[simp] theorem stopActions_cfgBaud (s : State) : (stopActions s).cfgBaud = s.cfgBaud := rfl
@[simp] theorem stopActions_baudStage (s : State) : (stopActions s).baudStage = s.baudStage := rfl
@[simp] theorem stopActions_params (s : State) : (stopActions s).params = s.params := rfl
@[simp] theorem stopActions_port (s : State) : (stopActions s).port = s.port := rfl
@[simp] theorem stopActions_out (s : State) : (stopActions s).out = s.out := rfl
@[simp] theorem stopActions_trace (s : State) : (stopActions s).trace = s.trace := rfl
@[simp] theorem stopActions_freeCtr (s : State) : (stopActions s).freeCtr = s.freeCtr := rfl

@[simp] theorem resetOf_run (P : Params) : (State.resetOf P).run = .stopped := rfl
@[simp] theorem resetOf_rxState (P : Params) : (State.resetOf P).rxState = .awaitStart := rfl
@[simp] theorem resetOf_rxb (P : Params) : (State.resetOf P).rxb = [] := rfl
@[simp] theorem resetOf_bodyCount (P : Params) : (State.resetOf P).bodyCount = 0 := rfl
@[simp] theorem resetOf_residArmed (P : Params) : (State.resetOf P).residArmed = false := rfl
@[simp] theorem resetOf_residCnt (P : Params) : (State.resetOf P).residCnt = 0 := rfl
@[simp] theorem resetOf_txState (P : Params) : (State.resetOf P).txState = .idle := rfl
@[simp] theorem resetOf_txb (P : Params) : (State.resetOf P).txb = [] := rfl
@[simp] theorem resetOf_txLen (P : Params) : (State.resetOf P).txLen = 0 := rfl
@[simp] theorem resetOf_respCnt (P : Params) : (State.resetOf P).respCnt = 0 := rfl
@[simp] theorem resetOf_lastResult (P : Params) : (State.resetOf P).lastResult = .none := rfl
@[simp] theorem resetOf_fault (P : Params) : (State.resetOf P).fault = false := rfl
@[simp] theorem resetOf_faultCause (P : Params) : (State.resetOf P).faultCause = .none := rfl
@[simp] theorem resetOf_cfgNode (P : Params) : (State.resetOf P).cfgNode = 0 := rfl
@[simp] theorem resetOf_cfgEn (P : Params) : (State.resetOf P).cfgEn = 0 := rfl
@[simp] theorem resetOf_cfgBaud (P : Params) : (State.resetOf P).cfgBaud = 0 := rfl
@[simp] theorem resetOf_baudStage (P : Params) : (State.resetOf P).baudStage = 0 := rfl
@[simp] theorem resetOf_params (P : Params) : (State.resetOf P).params = P := rfl
@[simp] theorem resetOf_port (P : Params) : (State.resetOf P).port = [] := rfl
@[simp] theorem resetOf_out (P : Params) : (State.resetOf P).out = [] := rfl
@[simp] theorem resetOf_trace (P : Params) : (State.resetOf P).trace = [] := rfl
@[simp] theorem resetOf_freeCtr (P : Params) : (State.resetOf P).freeCtr = 0 := rfl

end Sys2Proof.Machine
end

