-- ==== Sys2Proof/Laws/Ops.lean ====
section
/-! SUPPORT. What each shared operation can do, said once: the lemmas that proofs cite instead of unfolding it. -/

namespace Sys2Proof.Machine

/-! Sequencing. -/

theorem unlessFaulted_faulted {s : State} (h : s.fault = true) (f : State → Result) : unlessFaulted s f = .next s := by
  simp [unlessFaulted, h]

theorem unlessFaulted_live {s : State} (h : s.fault = false) (f : State → Result) : unlessFaulted s f = f s := by
  simp [unlessFaulted, h]

theorem withOk_next_iff {α : Type} {v : Except Fault α} {f : α → Result} {t : State} :
    withOk v f = .next t ↔ ∃ a, v = .ok a ∧ f a = .next t := by
  cases v <;> simp [withOk]

@[simp] theorem withOk_ok {α : Type} (a : α) (f : α → Result) : withOk (.ok a) f = f a := rfl

theorem seqThen_next_iff {r : Result} {f : State → Result} {t : State} :
    seqThen r f = .next t ↔
      ∃ s, r = .next s ∧ ((s.fault = true ∧ t = s) ∨ (s.fault = false ∧ f s = .next t)) := by
  cases r with
  | next s =>
    simp only [seqThen, Host.Outcome.next.injEq]
    constructor
    · intro h
      split at h
      · rename_i hf; exact ⟨s, rfl, .inl ⟨hf, by cases h; rfl⟩⟩
      · rename_i hf; exact ⟨s, rfl, .inr ⟨by simpa using hf, h⟩⟩
    · rintro ⟨u, rfl, ⟨hf, rfl⟩ | ⟨hf, h⟩⟩
      · simp [hf]
      · simp [hf, h]
  | fault e => simp [seqThen]
  | refused e => simp [seqThen]

theorem seqThen_live {s : State} (h : s.fault = false) (f : State → Result) : seqThen (.next s) f = f s := by
  simp [seqThen, h]

theorem seqThen_faulted {s : State} (h : s.fault = true) (f : State → Result) : seqThen (.next s) f = .next s := by
  simp [seqThen, h]

/-! Buffer accesses. -/

theorem bufByte_ok_iff {size : Nat} {m : Memory} {i : Nat} {b : Byte} :
    bufByte size m i = .ok b ↔ i < size ∧ Memory.read m i = some b := by
  unfold bufByte
  split
  · simp; omega
  · cases Memory.read m i <;> simp; omega

theorem bufRange_ok_iff {size : Nat} {m : Memory} {a n : Nat} {bs : List Byte} :
    bufRange size m a n = .ok bs ↔ (n = 0 ∨ a + n ≤ size) ∧ Memory.readRange m a n = some bs := by
  induction n generalizing a bs with
  | zero => simp [bufRange, Memory.readRange]
  | succ n ih =>
    rw [Memory.readRange_succ_some, bufRange]
    constructor
    · intro h
      split at h
      · cases h
      · rename_i b hb
        split at h
        · cases h
        · rename_i bs' hbs
          cases h
          obtain ⟨h1, h2⟩ := bufByte_ok_iff.mp hb
          obtain ⟨h3, h4⟩ := ih.mp hbs
          exact ⟨.inr (by omega), b, bs', h2, h4, rfl⟩
    · rintro ⟨h, b, bs', h1, h2, rfl⟩
      rw [bufByte_ok_iff.mpr ⟨by omega, h1⟩]
      simp only []
      rw [ih.mpr ⟨by omega, h2⟩]

theorem rxbByte_ok_iff {s : State} {i : Nat} {b : Byte} :
    rxbByte s i = .ok b ↔ i < s.params.bufBytes ∧ Memory.read s.rxb i = some b := bufByte_ok_iff

theorem rxbRange_ok_iff {s : State} {a n : Nat} {bs : List Byte} :
    rxbRange s a n = .ok bs ↔ (n = 0 ∨ a + n ≤ s.params.bufBytes) ∧ Memory.readRange s.rxb a n = some bs :=
  bufRange_ok_iff

theorem txbRange_ok_iff {s : State} {a n : Nat} {bs : List Byte} :
    txbRange s a n = .ok bs ↔ (n = 0 ∨ a + n ≤ s.params.bufBytes) ∧ Memory.readRange s.txb a n = some bs :=
  bufRange_ok_iff

theorem writeRxb_ok_iff {s t : State} {i : Nat} {v : Byte} :
    writeRxb s i v = .ok t ↔ i < s.params.bufBytes ∧ t = { s with rxb := Memory.write s.rxb i v } := by
  unfold writeRxb
  split
  · simp; omega
  · simp [eq_comm]; omega

theorem writeTxb_ok_iff {s t : State} {i : Nat} {v : Byte} :
    writeTxb s i v = .ok t ↔ i < s.params.bufBytes ∧ t = { s with txb := Memory.write s.txb i v } := by
  unfold writeTxb
  split
  · simp; omega
  · simp [eq_comm]; omega

theorem writeTxbRange_ok_iff {bs : List Byte} {s t : State} {i : Nat} :
    writeTxbRange s i bs = .ok t ↔
      (bs = [] ∨ i + bs.length ≤ s.params.bufBytes) ∧ t = { s with txb := Memory.writeRange s.txb i bs } := by
  induction bs generalizing s i with
  | nil => simp [writeTxbRange, Memory.writeRange, eq_comm]
  | cons b bs ih =>
    unfold writeTxbRange
    constructor
    · intro h
      split at h
      · cases h
      · rename_i s' hs
        obtain ⟨h1, rfl⟩ := writeTxb_ok_iff.mp hs
        obtain ⟨h2, rfl⟩ := ih.mp h
        refine ⟨.inr ?_, rfl⟩
        rcases h2 with rfl | h2
        · simp only [List.length_cons, List.length_nil]; omega
        · simp only [List.length_cons, Params.bufBytes] at h2 ⊢; omega
    · rintro ⟨h, rfl⟩
      simp only [List.length_cons, reduceCtorEq, false_or] at h
      rw [writeTxb_ok_iff.mpr ⟨by omega, rfl⟩]
      exact ih.mpr ⟨.inr (by simp only [Params.bufBytes] at h ⊢; omega), rfl⟩

/-! Counters of `CNT_W` bits. -/

theorem toCnt_lt (P : Params) (v : Nat) : toCnt P v < 2 ^ P.cntW := Nat.mod_lt _ (Nat.two_pow_pos _)

theorem toCnt_of_lt {P : Params} {v : Nat} (h : v < 2 ^ P.cntW) : toCnt P v = v := Nat.mod_eq_of_lt h

theorem decCnt_lt (P : Params) (v : Nat) : decCnt P v < 2 ^ P.cntW := toCnt_lt _ _

/-- A running counter counts down by one (R94). -/
theorem decCnt_of_pos {P : Params} {v : Nat} (h : 1 ≤ v) (hv : v < 2 ^ P.cntW) : decCnt P v = v - 1 := by
  have hp := Nat.two_pow_pos P.cntW
  rw [decCnt, toCnt, show v + (2 ^ P.cntW - 1) = v - 1 + 2 ^ P.cntW by omega, Nat.add_mod_right]
  exact Nat.mod_eq_of_lt (by omega)

/-! Loads (R92). -/

theorem ceilDiv_of_pos {b : Nat} (h : 1 ≤ b) (a : Nat) : ceilDiv a b = (a + b - 1) / b := by
  unfold ceilDiv; split
  · omega
  · rfl

theorem residLoadAt_pos (P : Params) (B : Baud) (lge : Nat) : 1 ≤ residLoadAt P B lge := by
  simp [residLoadAt]

theorem respLoadAt_pos (P : Params) (B : Baud) : 1 ≤ respLoadAt P B := by
  simp [respLoadAt]

/-! The scheduler and the dispatcher. -/

theorem txStart_next_iff {s t : State} :
    txStart s = .next t ↔
      ∃ bytes, txbRange s 0 s.txLen.toNat = .ok bytes ∧ t = { emit (.txStart bytes) s with txState := .sending } := by
  simp only [txStart, withOk_next_iff, Host.Outcome.next.injEq]
  constructor <;> rintro ⟨bytes, h, rfl⟩ <;> exact ⟨bytes, h, rfl⟩

theorem emitIfEnabled_next_iff {slot : Nat} {port : OutPort} {s t : State} :
    emitIfEnabled slot port s = .next t ↔
      ∃ lge tel, rxbByte s 1 = .ok lge ∧ telOf s lge.toNat = .ok tel ∧
        t = (if s.cfgEn.getLsbD slot then emit (.tel port tel) s else s) := by
  simp only [emitIfEnabled, withOk_next_iff]
  constructor
  · rintro ⟨lge, h1, tel, h2, h3⟩
    refine ⟨lge, tel, h1, h2, ?_⟩
    split at h3 <;> cases h3 <;> simp_all
  · rintro ⟨lge, tel, h1, h2, rfl⟩
    exact ⟨lge, h1, tel, h2, by split <;> rfl⟩

theorem mirrorFrame_next_iff {s t : State} :
    mirrorFrame s = .next t ↔
      (s.txState ≠ .idle ∧ t = raiseFault .txBusy s) ∨
      (s.txState = .idle ∧ ∃ lge frame, rxbByte s 1 = .ok lge ∧ rxbRange s 0 (lge.toNat + 2) = .ok frame ∧
        lge.toNat + 2 ≤ s.params.bufBytes ∧
        t = schedule { s with
          txb := Memory.writeRange s.txb 0 frame
          txLen := BitVec.ofNat 9 (lge.toNat + 2) }) := by
  unfold mirrorFrame
  split
  · rename_i h
    simp [h, eq_comm]
  · rename_i h
    simp only [withOk_next_iff, writeTxbRange_ok_iff, h, false_and, false_or]
    constructor
    · rintro ⟨lge, h1, frame, h2, u, ⟨h3, rfl⟩, h4⟩
      have hl := Memory.readRange_length (rxbRange_ok_iff.mp h2).2
      refine ⟨by simpa using h, lge, frame, h1, h2, ?_, ?_⟩
      · have := (rxbRange_ok_iff.mp h2).1
        omega
      · cases h4; rfl
    · rintro ⟨-, lge, frame, h1, h2, h3, rfl⟩
      have hl := Memory.readRange_length (rxbRange_ok_iff.mp h2).2
      exact ⟨lge, h1, frame, h2, _, ⟨.inr (by omega), rfl⟩, rfl⟩

theorem dispatchFrame_next_iff {s t : State} :
    dispatchFrame s = .next t ↔
      ∃ adr u, rxbByte s 2 = .ok adr ∧ runClass adr s = .next u ∧
        ((u.fault = true ∧ t = u) ∨ (u.fault = false ∧ actAny u = .next t)) := by
  simp only [dispatchFrame, withOk_next_iff, seqThen_next_iff]
  constructor
  · rintro ⟨adr, h1, u, h2, h3⟩; exact ⟨adr, u, h1, h2, h3⟩
  · rintro ⟨adr, u, h1, h2, h3⟩; exact ⟨adr, h1, u, h2, h3⟩

/-- The class action is the meaning of the ADR instruction that the byte decodes to. -/
theorem runClass_special {adr : Byte} {s : State} (h : classify adr s.cfgNode = .special) :
    runClass adr s = execAdrSpecial (adr.extractLsb' 0 7) s := by simp [runClass, h]

theorem runClass_mirror {adr : Byte} {s : State} (h : classify adr s.cfgNode = .mirror) :
    runClass adr s = execAdrMirror (adr.getLsbD 5) (adr.extractLsb' 0 5) s := by simp [runClass, h]

theorem runClass_broadcast {adr : Byte} {s : State} (h : classify adr s.cfgNode = .broadcast) :
    runClass adr s = execAdrBroadcast (adr.getLsbD 6) (adr.extractLsb' 0 5) s := by simp [runClass, h]

theorem runClass_standard {adr : Byte} {s : State} (h : classify adr s.cfgNode = .standard) :
    runClass adr s = execAdrStandard (adr.extractLsb' 0 5) s := by simp [runClass, h]

theorem runClass_unaddressed {adr : Byte} {s : State} (h : classify adr s.cfgNode = .unaddressed) :
    runClass adr s = execAdrUnaddressed (adr.getLsbD 6) (adr.extractLsb' 0 5) s := by simp [runClass, h]

/-! The receive path. -/

theorem captureByte_ok_iff {d : Byte} {s t : State} :
    captureByte d s = .ok t ↔
      2 + s.bodyCount.toNat < s.params.bufBytes ∧
        t = { s with
          rxb := Memory.write s.rxb (2 + s.bodyCount.toNat) d
          bodyCount := s.bodyCount + 1 } := by
  unfold captureByte writeRxb
  split
  · rename_i h
    split at h
    · cases h
    · cases h; simp [eq_comm]; omega
  · rename_i h
    split at h
    · cases h; simp; omega
    · cases h

theorem rxAwaitBody_next_iff {d : Byte} {s t : State} :
    rxAwaitBody d s = .next t ↔
      ∃ lge u, rxbByte s 1 = .ok lge ∧ captureByte d s = .ok u ∧
        (if u.bodyCount = lge then completeFrame u else .next u) = .next t := by
  simp only [rxAwaitBody, withOk_next_iff]
  constructor
  · rintro ⟨lge, h1, u, h2, h3⟩; exact ⟨lge, u, h1, h2, h3⟩
  · rintro ⟨lge, u, h1, h2, h3⟩; exact ⟨lge, h1, u, h2, h3⟩

theorem completeFrame_next_iff {s t : State} :
    completeFrame s = .next t ↔
      ∃ lge ok, rxbByte s 1 = .ok lge ∧ bccMatches { s with residArmed := false, residCnt := 0 } lge.toNat = .ok ok ∧
        ((ok = false ∧ t = returnToStart (setLastResult .bccMismatch { s with residArmed := false, residCnt := 0 })) ∨
         (ok = true ∧ ∃ u, dispatchFrame (setLastResult .ok { s with residArmed := false, residCnt := 0 }) = .next u ∧
           ((u.fault = true ∧ t = u) ∨ (u.fault = false ∧ t = returnToStart u)))) := by
  simp only [completeFrame, withOk_next_iff]
  constructor
  · rintro ⟨lge, h1, ok, h2, h3⟩
    refine ⟨lge, ok, h1, h2, ?_⟩
    cases ok with
    | false => simp_all
    | true =>
      simp only [if_true, seqThen_next_iff] at h3
      obtain ⟨u, h4, h5⟩ := h3
      refine .inr ⟨rfl, u, h4, ?_⟩
      rcases h5 with h5 | ⟨h5, h6⟩
      · exact .inl h5
      · cases h6; exact .inr ⟨h5, rfl⟩
  · rintro ⟨lge, ok, h1, h2, h3⟩
    refine ⟨lge, h1, ok, h2, ?_⟩
    rcases h3 with ⟨rfl, rfl⟩ | ⟨rfl, u, h4, h5⟩
    · simp
    · simp only [if_true, seqThen_next_iff]
      refine ⟨u, h4, ?_⟩
      rcases h5 with h5 | ⟨h5, rfl⟩
      · exact .inl h5
      · exact .inr ⟨h5, rfl⟩

theorem tickResp_next_iff {s t : State} :
    tickResp s = .next t ↔
      (s.txState ≠ .responseWait ∧ t = s) ∨
      (s.txState = .responseWait ∧ decCnt s.params s.respCnt ≠ 0 ∧
        t = { s with respCnt := decCnt s.params s.respCnt }) ∨
      (s.txState = .responseWait ∧ decCnt s.params s.respCnt = 0 ∧
        txStart { s with respCnt := decCnt s.params s.respCnt } = .next t) := by
  unfold tickResp
  split
  · rename_i h
    split
    · rename_i h2; simp [h, h2]
    · rename_i h2; simp [h, h2, eq_comm]
  · rename_i h; simp [h, eq_comm]

end Sys2Proof.Machine
end

