-- ==== Sys2Proof/Laws/Frame.lean ====
section
/-! SUPPORT. What the operands computed from RXB are, in terms of the frame that stands there: the telegram, the BCC
check, the bytes copied by the mirror action. Also the timer loads as explicit quotients. -/

namespace Sys2Proof.Machine

open Sys2Proof.Safety

/-! Loads. -/

theorem baud_pos {B : Baud} (h : B ≠ 0) : 1 ≤ B.toNat := by
  rcases Nat.eq_zero_or_pos B.toNat with h0 | h0
  · exact absurd (BitVec.eq_of_toNat_eq (by simpa using h0)) h
  · exact h0

/-- `resid_load` with the constants of R8 put in (R92). -/
theorem residLoadAt_eq (P : Params) {B : Baud} (h : B ≠ 0) (lge : Nat) :
    residLoadAt P B lge = (33 * lge * P.tickHz + 2 * B.toNat - 1) / (2 * B.toNat) + 1 := by
  have := baud_pos h
  rw [residLoadAt, ceilDiv_of_pos (by simp only [Config.residDen]; omega)]
  simp only [Config.residDen, Config.residNum, Config.charBits, Config.timerGuard]
  congr 3
  ring

/-- `resp_load` with the constants of R8 put in (R92). -/
theorem respLoadAt_eq (P : Params) {B : Baud} (h : B ≠ 0) :
    respLoadAt P B = (22 * P.tickHz + B.toNat - 1) / B.toNat + 1 := by
  rw [respLoadAt, ceilDiv_of_pos (baud_pos h)]
  simp only [Config.respChars, Config.charBits, Config.timerGuard]

/-! The XOR of a byte sequence. -/

theorem xorBytes_append (as bs : List Byte) : xorBytes (as ++ bs) = xorBytes as ^^^ xorBytes bs := by
  induction as with
  | nil => simp [xorBytes]
  | cons a as ih => simp [xorBytes, ih, BitVec.xor_assoc]

theorem xorBytes_singleton (b : Byte) : xorBytes [b] = b := by simp [xorBytes]

/-- A frame is valid exactly when its last byte is the XOR of the bytes before it (R80). -/
theorem validFrame_snoc (bs : List Byte) (b : Byte) : validFrame (bs ++ [b]) ↔ xorBytes bs = b := by
  rw [validFrame, xorBytes_append, xorBytes_singleton]
  constructor
  · intro h
    have := congrArg (· ^^^ b) h
    simpa [BitVec.xor_assoc] using this
  · rintro rfl
    simp

/-! The frame in RXB. -/

theorem rxbByte_of_frame {s : State} {lge : Nat} {frame : List Byte} (hb : lge + 2 ≤ s.params.bufBytes)
    (hr : Memory.readRange s.rxb 0 (lge + 2) = some frame) {i : Nat} (hi : i < lge + 2) :
    rxbByte s i = .ok (frame.getD i 0) := by
  have hl := Memory.readRange_length hr
  have h := Memory.read_of_readRange hr hi
  rw [Nat.zero_add] at h
  refine rxbByte_ok_iff.mpr ⟨by omega, ?_⟩
  rw [h, List.getD_eq_getElem?_getD, List.getElem?_eq_getElem (by omega)]
  rfl

theorem rxbRange_of_frame {s : State} {lge : Nat} {frame : List Byte} (hb : lge + 2 ≤ s.params.bufBytes)
    (hr : Memory.readRange s.rxb 0 (lge + 2) = some frame) {k l : Nat} (hk : k + l ≤ lge + 2) :
    rxbRange s k l = .ok ((frame.drop k).take l) := by
  have h := Memory.readRange_sub hr hk
  rw [Nat.zero_add] at h
  exact rxbRange_ok_iff.mpr ⟨by omega, h⟩

/-- `tel_of` gives the telegram of the frame (R65). -/
theorem telOf_of_frame {s : State} {lge : Nat} {frame : List Byte} (h2 : 2 ≤ lge) (hb : lge + 2 ≤ s.params.bufBytes)
    (hr : Memory.readRange s.rxb 0 (lge + 2) = some frame) : telOf s lge = .ok (telegramOf frame) := by
  have hl := Memory.readRange_length hr
  rw [telOf, rxbByte_of_frame hb hr (by omega), rxbByte_of_frame hb hr (by omega), rxbByte_of_frame hb hr (by omega),
    rxbByte_of_frame hb hr (by omega), rxbRange_of_frame hb hr (by omega)]
  simp only [telegramOf, hl]
  congr 3

/-- `check_bcc` compares as `validFrame` says (R80). -/
theorem bccMatches_of_frame {s : State} {lge : Nat} {frame : List Byte} (hb : lge + 2 ≤ s.params.bufBytes)
    (hr : Memory.readRange s.rxb 0 (lge + 2) = some frame) :
    ∃ ok, bccMatches s lge = .ok ok ∧ (ok = true ↔ validFrame frame) := by
  have hl := Memory.readRange_length hr
  obtain ⟨pre, b, rfl⟩ : ∃ pre b, frame = pre ++ [b] :=
    ⟨frame.dropLast, frame.getLast (by intro h; simp [h] at hl), (List.dropLast_append_getLast _).symm⟩
  simp only [List.length_append, List.length_singleton] at hl
  rw [bccMatches, bccOf, rxbRange_of_frame hb hr (by omega), rxbByte_of_frame hb hr (by omega)]
  simp only [List.drop_zero]
  rw [show lge + 1 = pre.length by omega, List.take_left]
  refine ⟨_, rfl, ?_⟩
  rw [validFrame_snoc]
  simp

/-- Emitting the frame's telegram on a port (R84, R86, R87, R89). -/
theorem emitIfEnabled_of_frame {s : State} {lge : Nat} {frame : List Byte} (h2 : 2 ≤ lge)
    (hb : lge + 2 ≤ s.params.bufBytes) (hr : Memory.readRange s.rxb 0 (lge + 2) = some frame)
    (h1 : (frame.getD 1 0).toNat = lge) (slot : Nat) (port : OutPort) :
    emitIfEnabled slot port s =
      .next { s with out := s.out ++ if s.cfgEn.getLsbD slot then [.tel port (telegramOf frame)] else [] } := by
  rw [emitIfEnabled, rxbByte_of_frame hb hr (by omega), withOk_ok, h1, telOf_of_frame h2 hb hr, withOk_ok]
  split
  · rfl
  · simp

/-- The mirror action on the frame, with an idle transmitter (R85, R98). -/
theorem mirrorFrame_of_frame {s : State} {lge : Nat} {frame : List Byte} (hi : s.txState = .idle)
    (hb : lge + 2 ≤ s.params.bufBytes) (hr : Memory.readRange s.rxb 0 (lge + 2) = some frame)
    (h1 : (frame.getD 1 0).toNat = lge) :
    mirrorFrame s = .next { s with
      txb := Memory.writeRange s.txb 0 frame
      txLen := BitVec.ofNat 9 (lge + 2)
      respCnt := toCnt s.params (respLoad s)
      txState := .responseWait } := by
  have hl := Memory.readRange_length hr
  refine mirrorFrame_next_iff.mpr (.inr ⟨hi, frame.getD 1 0, frame, rxbByte_of_frame hb hr (by omega), ?_, ?_, ?_⟩)
  · rw [h1, rxbRange_of_frame hb hr (by omega), List.drop_zero, List.take_of_length_le (by omega)]
  · omega
  · rw [h1]; rfl

/-! The frame that a character completes. -/

theorem lgeOf_read {s : State} (h : 0 < lgeOf s) : ∃ l, Memory.read s.rxb 1 = some l ∧ l.toNat = lgeOf s := by
  unfold lgeOf at h ⊢
  cases hr : Memory.read s.rxb 1 with
  | none => rw [hr] at h; simp at h
  | some l => exact ⟨l, rfl, rfl⟩

/-- What `completedFrame` means in a state that meets the invariant: `d` is the last of `lge` body bytes, and RXB with
`d` stored holds exactly the frame (R75). -/
theorem completedFrame_spec {s : State} {d : Byte} {frame : List Byte} (hi : Invariant s) (hf : s.fault = false)
    (h : completedFrame d s = some frame) :
    s.run = .running ∧ s.rxState = .awaitBody ∧ 2 ≤ lgeOf s ∧ lgeOf s + 2 ≤ s.params.bufBytes ∧
      s.bodyCount.toNat + 1 = lgeOf s ∧
      (∃ l, Memory.read s.rxb 1 = some l ∧ l.toNat = lgeOf s ∧ s.bodyCount + 1 = l ∧ frame.getD 1 0 = l) ∧
      Memory.readRange (Memory.write s.rxb (2 + s.bodyCount.toNat) d) 0 (lgeOf s + 2) = some frame := by
  unfold completedFrame at h
  split at h
  · rename_i hc
    obtain ⟨hrun, hst, hcnt⟩ := hc
    obtain ⟨pre, hpre, rfl⟩ := Option.map_eq_some_iff.mp h
    have hL := (hi.live hf).body hst
    have hpar := hi.sound.params
    obtain ⟨l, hl, hl2⟩ := lgeOf_read (s := s) (by omega)
    have hlen := Memory.readRange_length hpre
    have hlt := l.isLt
    refine ⟨hrun, hst, hL.1, by simp only [Params.bufBytes]; omega, hcnt, ⟨l, hl, hl2, ?_, ?_⟩, ?_⟩
    · apply BitVec.eq_of_toNat_eq
      have := s.bodyCount.isLt
      rw [BitVec.toNat_add, show (1 : BitVec 8).toNat = 1 from rfl, Nat.mod_eq_of_lt (by omega)]
      omega
    · have := Memory.read_of_readRange hpre (i := 1) (by omega)
      rw [Nat.zero_add, hl, List.getElem?_eq_getElem (by omega)] at this
      rw [List.getD_eq_getElem?_getD, List.getElem?_append_left (by omega), List.getElem?_eq_getElem (by omega), ← this]
      rfl
    · refine Memory.readRange_snoc ?_ ?_
      · rw [Memory.readRange_write_outside _ _ (.inr (by omega)), hpre]
      · rw [show 0 + (lgeOf s + 1) = 2 + s.bodyCount.toNat by omega, Memory.read_write_same]
  · cases h

end Sys2Proof.Machine
end

