-- ==== Sys2Proof/Laws/PerInstr.lean ====
section
/-! SUPPORT. Statements made of each instruction as syntax, one lemma for each constructor. -/

namespace Sys2Proof.Laws.CodeFitsTheTable

/-- An event instruction is encoded in a 32-bit word that is legal exactly when the instruction is no ILLEGAL (R61, R63),
and an ADR instruction in a byte with the class bits of its row (R59, R60). -/
def Statement (i : Instr) : Prop :=
  ∀ N : Node, i.wellFormed N = true →
    match i with
    | .adrSpecial _ => ∃ a, encode i = .adr a ∧ a.getLsbD 7 = true
    | .adrMirror _ _ => ∃ a, encode i = .adr a ∧ a.extractLsb' 6 2 = 1
    | .adrBroadcast _ _ => ∃ a, encode i = .adr a ∧ a.getLsbD 7 = false ∧ a.getLsbD 5 = true
    | .adrStandard _ => ∃ a, encode i = .adr a ∧ a.extractLsb' 5 3 = 0
    | .adrUnaddressed _ _ => ∃ a, encode i = .adr a ∧ a.getLsbD 7 = false ∧ a.getLsbD 5 = false
    | .illegal w => encode i = .event w ∧ legalWord w = false
    | i => ∃ w, encode i = .event w ∧ legalWord w = true

/-- A word that matches a row of the event map and is not `0x20000003` is legal (R63). -/
theorem legal_of_row {w : EventWord} {r : EventRow} (hr : r ∈ eventRows) (hm : w &&& r.mask = r.pattern)
    (h : w ≠ 0x20000003) : legalWord w = true := by
  simp only [legalWord, Bool.and_eq_true, List.any_eq_true, bne_iff_ne]
  exact ⟨⟨r, hr, by simp [EventRow.matchesWord, hm]⟩, h⟩

theorem rx (d : Byte) : Statement (.rx d) := fun _ _ =>
  ⟨_, rfl, (by decide : ∀ d : Byte, legalWord (0x1#4 ++ 0#20 ++ d) = true) d⟩

theorem err (k : LineErr) : Statement (.err k) := fun _ _ => ⟨_, rfl, by cases k <;> decide⟩

theorem tick : Statement .tick := fun _ _ => ⟨_, rfl, by decide⟩

theorem txdone : Statement .txdone := fun _ _ => ⟨_, rfl, by decide⟩

theorem baud (b : Baud) : Statement (.baud b) := fun _ _ => by
  refine ⟨_, rfl, legal_of_row (r := { mask := 0xFF000000, pattern := 0x50000000 }) (by decide) ?_ ?_⟩
  · apply BitVec.eq_of_getLsbD_eq
    intro i hi
    interval_cases i <;> rw [BitVec.getLsbD_and] <;> simp only [BitVec.getLsbD_append] <;> simp
  · intro h
    have := congrArg (BitVec.getLsbD · 28) h
    simp only [BitVec.getLsbD_append] at this
    simp at this

theorem start (nd : Node) (en : Enables) : Statement (.start nd en) := fun _ _ => by
  refine ⟨_, rfl, legal_of_row (r := { mask := 0xFFFFF0E0, pattern := 0x60000000 }) (by decide) ?_ ?_⟩
  · apply BitVec.eq_of_getLsbD_eq
    intro i hi
    interval_cases i <;> rw [BitVec.getLsbD_and] <;> simp only [BitVec.getLsbD_append] <;> simp
  · intro h
    have := congrArg (BitVec.getLsbD · 30) h
    simp only [BitVec.getLsbD_append] at this
    simp at this

theorem stop : Statement .stop := fun _ _ => ⟨_, rfl, by decide⟩

theorem illegal (w : EventWord) : Statement (.illegal w) := fun _ h => ⟨rfl, by simpa [Instr.wellFormed] using h⟩

theorem adrSpecial (low : BitVec 7) : Statement (.adrSpecial low) := fun _ _ =>
  ⟨_, rfl, by clear * -; revert low; decide⟩

theorem adrMirror (b5 : Bool) (node : Node) : Statement (.adrMirror b5 node) := fun _ _ =>
  ⟨_, rfl, by clear * -; revert b5 node; decide⟩

theorem adrBroadcast (b6 : Bool) (node : Node) : Statement (.adrBroadcast b6 node) := fun _ _ =>
  ⟨_, rfl, by clear * -; revert b6 node; decide⟩

theorem adrStandard (node : Node) : Statement (.adrStandard node) := fun _ _ =>
  ⟨_, rfl, by clear * -; revert node; decide⟩

theorem adrUnaddressed (b6 : Bool) (node : Node) : Statement (.adrUnaddressed b6 node) := fun _ _ =>
  ⟨_, rfl, by clear * -; revert b6 node; decide⟩

end Sys2Proof.Laws.CodeFitsTheTable
end

