-- ==== Sys2Proof/Laws/Steps.lean ====
section
/-! SUPPORT. What a step of the receive path can do, said once (inversion): if a procedure answers a next state, then one
of the listed cases holds. Frame and invariant proofs cite these lemmas and unfold nothing. -/

namespace Sys2Proof.Machine

open Sys2Proof.Safety

/-- Only telegram records were added to `out`, and nothing else changed. -/
def AddsTelegrams (s t : State) : Prop :=
  ∃ new, t = { s with out := s.out ++ new } ∧ ∀ o ∈ new, ∃ port tel, o = .tel port tel

theorem AddsTelegrams.refl (s : State) : AddsTelegrams s s := ⟨[], by simp, by simp⟩

theorem emitIfEnabled_adds {slot : Nat} {port : OutPort} {s t : State} (h : emitIfEnabled slot port s = .next t) :
    AddsTelegrams s t := by
  obtain ⟨lge, tel, -, -, rfl⟩ := emitIfEnabled_next_iff.mp h
  split
  · exact ⟨[.tel port tel], rfl, by simp⟩
  · exact AddsTelegrams.refl s

/-- TXB, `tx_len` and the response delay after the mirror action (R85, R98). -/
def Mirrored (s t : State) : Prop :=
  ∃ lge frame, Memory.read s.rxb 1 = some lge ∧ lge.toNat + 2 ≤ s.params.bufBytes ∧
    Memory.readRange s.rxb 0 (lge.toNat + 2) = some frame ∧
    t = { s with
      txb := Memory.writeRange s.txb 0 frame
      txLen := BitVec.ofNat 9 (lge.toNat + 2)
      respCnt := toCnt s.params (respLoad s)
      txState := .responseWait }

theorem mirrorFrame_cases {s t : State} (h : mirrorFrame s = .next t) :
    (s.txState ≠ .idle ∧ t = raiseFault .txBusy s) ∨ (s.txState = .idle ∧ Mirrored s t) := by
  rcases mirrorFrame_next_iff.mp h with h | ⟨hi, lge, frame, h1, h2, h3, rfl⟩
  · exact .inl h
  · exact .inr ⟨hi, lge, frame, (rxbByte_ok_iff.mp h1).2, h3, (rxbRange_ok_iff.mp h2).2, rfl⟩

/-- What a class action can do (R84 to R88). -/
theorem runClass_cases {adr : Byte} {s t : State} (hf : s.fault = false) (h : runClass adr s = .next t) :
    (classify adr s.cfgNode = .mirror ∧ s.txState ≠ .idle ∧ t = raiseFault .txBusy s) ∨
    (classify adr s.cfgNode = .mirror ∧ s.txState = .idle ∧ Mirrored s t) ∨
    (classify adr s.cfgNode ≠ .mirror ∧ AddsTelegrams s t) := by
  unfold runClass at h
  cases hc : classify adr s.cfgNode <;> rw [hc] at h
  · exact .inr (.inr ⟨by simp, emitIfEnabled_adds (by rwa [execAdrSpecial, unlessFaulted_live hf] at h)⟩)
  · simp only [execAdrMirror] at h
    rw [unlessFaulted_live hf] at h
    rcases mirrorFrame_cases h with ⟨h1, h2⟩ | ⟨h1, h2⟩
    · exact .inl ⟨rfl, h1, h2⟩
    · exact .inr (.inl ⟨rfl, h1, h2⟩)
  · exact .inr (.inr ⟨by simp, emitIfEnabled_adds (by rwa [execAdrBroadcast, unlessFaulted_live hf] at h)⟩)
  · exact .inr (.inr ⟨by simp, emitIfEnabled_adds (by rwa [execAdrStandard, unlessFaulted_live hf] at h)⟩)
  · simp only [execAdrUnaddressed] at h
    rw [unlessFaulted_live hf] at h
    cases h
    exact .inr (.inr ⟨by simp, AddsTelegrams.refl s⟩)

/-- What the dispatcher can do to a state without a fault (R83). -/
theorem dispatchFrame_cases {s t : State} (hf : s.fault = false) (h : dispatchFrame s = .next t) :
    ∃ adr, Memory.read s.rxb 2 = some adr ∧
      ((classify adr s.cfgNode = .mirror ∧ s.txState ≠ .idle ∧ t = raiseFault .txBusy s) ∨
       (classify adr s.cfgNode = .mirror ∧ s.txState = .idle ∧ ∃ u, Mirrored s u ∧ AddsTelegrams u t) ∨
       (classify adr s.cfgNode ≠ .mirror ∧ AddsTelegrams s t)) := by
  obtain ⟨adr, u, h1, h2, h3⟩ := dispatchFrame_next_iff.mp h
  refine ⟨adr, (rxbByte_ok_iff.mp h1).2, ?_⟩
  rcases runClass_cases hf h2 with ⟨c, x, rfl⟩ | ⟨c, x, m⟩ | ⟨c, a⟩
  · rcases h3 with ⟨-, rfl⟩ | ⟨h3, -⟩
    · exact .inl ⟨c, x, rfl⟩
    · simp at h3
  · rcases h3 with ⟨h3, -⟩ | ⟨-, h4⟩
    · obtain ⟨_, _, _, _, _, rfl⟩ := m
      simp only at h3
      rw [hf] at h3; cases h3
    · exact .inr (.inl ⟨c, x, u, m, emitIfEnabled_adds h4⟩)
  · obtain ⟨new, rfl, hn⟩ := a
    rcases h3 with ⟨h3, -⟩ | ⟨-, h4⟩
    · simp only at h3
      rw [hf] at h3; cases h3
    · obtain ⟨new', rfl, hn'⟩ := emitIfEnabled_adds h4
      refine .inr (.inr ⟨c, new ++ new', by simp, fun o ho => ?_⟩)
      rcases List.mem_append.mp ho with ho | ho
      · exact hn o ho
      · exact hn' o ho

/-- What frame completion can do to a state without a fault (R76): the mismatch, a fault, or the dispatch of a valid frame
with or without the mirror action. -/
theorem completeFrame_cases {s t : State} (hf : s.fault = false) (h : completeFrame s = .next t) :
    t = returnToStart (setLastResult .bccMismatch s) ∨
    (s.txState ≠ .idle ∧ t = raiseFault .txBusy s) ∨
    (s.txState = .idle ∧ ∃ u, Mirrored s u ∧ AddsTelegrams (returnToStart (setLastResult .ok u)) t) ∨
    AddsTelegrams (returnToStart (setLastResult .ok s)) t := by
  obtain ⟨lge, ok, -, -, h3⟩ := completeFrame_next_iff.mp h
  rcases h3 with ⟨-, rfl⟩ | ⟨-, u, h4, h5⟩
  · exact .inl rfl
  · obtain ⟨adr, -, h6⟩ := dispatchFrame_cases (by exact hf) h4
    rcases h6 with ⟨-, x, rfl⟩ | ⟨-, x, v, ⟨l, frame, e1, e2, e3, rfl⟩, new, rfl, hn⟩ | ⟨-, new, rfl, hn⟩
    · rcases h5 with ⟨-, rfl⟩ | ⟨h5, -⟩
      · exact .inr (.inl ⟨x, rfl⟩)
      · simp at h5
    · rcases h5 with ⟨h5, -⟩ | ⟨-, rfl⟩
      · have h5 : s.fault = true := h5
        rw [hf] at h5; cases h5
      · exact .inr (.inr (.inl ⟨x, _, ⟨l, frame, e1, e2, e3, rfl⟩, new, rfl, hn⟩))
    · rcases h5 with ⟨h5, -⟩ | ⟨-, rfl⟩
      · have h5 : s.fault = true := h5
        rw [hf] at h5; cases h5
      · exact .inr (.inr (.inr ⟨new, rfl, hn⟩))

/-- A body byte has been captured (R75). -/
def captured (d : Byte) (s : State) : State :=
  { s with
    rxb := Memory.write s.rxb (2 + s.bodyCount.toNat) d
    bodyCount := s.bodyCount + 1 }

/-- What RX_CHAR can do to a running state without a fault (R71 to R75). -/
theorem execRx_cases {d : Byte} {s t : State} (hf : s.fault = false) (hr : s.run = .running)
    (h : execRx d s = .next t) :
    (s.rxState = .awaitStart ∧ d ≠ Config.stxValue ∧ t = s) ∨
    (s.rxState = .awaitStart ∧ d = Config.stxValue ∧
      t = { s with rxb := Memory.write s.rxb 0 d, rxState := .awaitLength }) ∨
    (s.rxState = .awaitLength ∧ (Config.minLge ≤ d.toNat ∧ d.toNat ≤ s.params.maxLge) ∧
      t = { s with
        rxb := Memory.write s.rxb 1 d
        bodyCount := 0
        residCnt := toCnt s.params (residLoad s d.toNat)
        residArmed := true
        rxState := .awaitBody }) ∨
    (s.rxState = .awaitLength ∧ ¬(Config.minLge ≤ d.toNat ∧ d.toNat ≤ s.params.maxLge) ∧
      t = returnToStart (setLastResult .lenReject s)) ∨
    (s.rxState = .awaitBody ∧ 2 + s.bodyCount.toNat < s.params.bufBytes ∧ ∃ lge, Memory.read s.rxb 1 = some lge ∧
      ((s.bodyCount + 1 ≠ lge ∧ t = captured d s) ∨
       (s.bodyCount + 1 = lge ∧ completeFrame (captured d s) = .next t))) := by
  rw [execRx, unlessFaulted_live hf, hr] at h
  cases hs : s.rxState <;> simp only [hs] at h
  · rw [rxAwaitStart] at h
    split at h
    · rename_i hd
      obtain ⟨u, hu, h⟩ := withOk_next_iff.mp h
      obtain ⟨-, rfl⟩ := writeRxb_ok_iff.mp hu
      cases h
      exact .inr (.inl ⟨rfl, hd, rfl⟩)
    · rename_i hd
      cases h
      exact .inl ⟨rfl, hd, rfl⟩
  · rw [rxAwaitLength] at h
    split at h
    · rename_i hd
      obtain ⟨u, hu, h⟩ := withOk_next_iff.mp h
      obtain ⟨-, rfl⟩ := writeRxb_ok_iff.mp hu
      cases h
      exact .inr (.inr (.inl ⟨rfl, hd, rfl⟩))
    · rename_i hd
      cases h
      exact .inr (.inr (.inr (.inl ⟨rfl, hd, rfl⟩)))
  · obtain ⟨lge, u, h1, h2, h3⟩ := rxAwaitBody_next_iff.mp h
    obtain ⟨hb, rfl⟩ := captureByte_ok_iff.mp h2
    refine .inr (.inr (.inr (.inr ⟨rfl, hb, lge, (rxbByte_ok_iff.mp h1).2, ?_⟩)))
    split at h3
    · rename_i he
      exact .inr ⟨he, h3⟩
    · rename_i he
      cases h3
      exact .inl ⟨he, rfl⟩

end Sys2Proof.Machine
end

