-- ==== Sys2Proof/Tests/Slice0.lean ====
section
/-! SUPPORT. Tests. Expected values come from spec/: the vectors of 95_test_vectors.md (parameter set A), the encodings of
30_encoding.md, and hand calculation from the rules named. The `witness` theorems show, for each statement that has
hypotheses, a concrete state and operands that meet them, at the boundary values of each clause. -/

namespace Sys2Proof.Tests

open Sys2Proof Sys2Proof.Machine Sys2Proof.Safety Sys2Proof.Statements

/-! Well-formedness: the term each check refuses (R60, R63). -/

theorem test_illegal_refuses_legal_word : (Instr.illegal 0x30000000).wellFormed 0 = false := by decide
theorem test_mirror_refuses_other_node : (Instr.adrMirror false 1).wellFormed 0 = false := by decide
theorem test_broadcast_refuses_own_mirror : (Instr.adrBroadcast true 4).wellFormed 4 = false := by decide
theorem test_standard_refuses_other_node : (Instr.adrStandard 0).wellFormed 31 = false := by decide
theorem test_unaddressed_refuses_own_node : (Instr.adrUnaddressed false 7).wellFormed 7 = false := by decide
theorem test_kind_three_is_no_legal_word : legalWord 0x20000003 = false := by decide

/-! Decoding: a word written out from the spec's encoding for every constructor (R60, R61; V-E, V-C). -/

theorem test_decode_rx : decodeEvent 0b00010000000000000000000011111111 = .rx 0xFF := by decide
theorem test_decode_err : decodeEvent 0b00100000000000000000000000000010 = .err .overrun := by decide
theorem test_decode_err_framing : decodeEvent 0x20000000 = .err .framing := by decide
theorem test_decode_tick : decodeEvent 0b00110000000000000000000000000000 = .tick := by decide
theorem test_decode_txdone : decodeEvent 0b01000000000000000000000000000000 = .txdone := by decide
theorem test_decode_baud : decodeEvent 0b01010000000000101101110001101100 = .baud 187500 := by decide
theorem test_decode_start : decodeEvent 0b01100000000000000000101000000101 = .start 5 0b1010 := by decide
theorem test_decode_stop : decodeEvent 0b01110000000000000000000000000000 = .stop := by decide
theorem test_decode_illegal : decodeEvent 0b10000000000000000000000000000000 = .illegal 0x80000000 := by decide
theorem test_decode_illegal_bit : decodeEvent 0x10000100 = .illegal 0x10000100 := by decide
theorem test_decode_special : decodeAdr 0 0b10011111 = .adrSpecial 0x1F := by decide
theorem test_decode_mirror : decodeAdr 31 0b01111111 = .adrMirror true 31 := by decide
theorem test_decode_broadcast : decodeAdr 1 0b01100000 = .adrBroadcast true 0 := by decide
theorem test_decode_standard : decodeAdr 16 0b00010000 = .adrStandard 16 := by decide
theorem test_decode_unaddressed : decodeAdr 0 0b01000001 = .adrUnaddressed true 1 := by decide
theorem test_table_word_event : decodeTableWord 32 0x60000F00 = some (.start 0 15) := by decide
theorem test_table_word_adr : decodeTableWord 8 0x40 = some (.adrMirror false 0) := by decide
theorem test_reason_opcode : illegalReason 0xF0000000 = some .reservedOpcode := by decide
theorem test_reason_kind : illegalReason 0x20000003 = some .errKindThree := by decide

/-! The written form (R66, R67, R68). -/

theorem test_text_start :
    assembleLine Config.setA "START node=5 en=bcast+any ; a comment".toList = some [0x60000A05] := by decide
theorem test_text_frame : assembleLine Config.setA "FRAME 0x00 0x11 0x22".toList =
    some [0x10000002, 0x10000004, 0x10000000, 0x10000011, 0x10000022, 0x10000035] := by decide

/-! Small states, with the parameter set A of R9. -/

/-- Running and idle: the state after the prefix S0 of 95_test_vectors.md. -/
def idle : State :=
  { State.resetOf Config.setA with run := .running, cfgEn := 0xF, cfgBaud := 9600, baudStage := 9600 }

/-- STX received. -/
def inLength : State := { idle with rxState := .awaitLength, rxb := [(0, 2)] }

/-- In the body of a frame of length `lge`, with the body bytes received so far. -/
def inBody (lge : Byte) (body : List Byte) (cnt : Nat) : State :=
  { idle with
    rxState := .awaitBody
    rxb := Memory.writeRange [] 0 (2 :: lge :: body)
    bodyCount := BitVec.ofNat 8 body.length
    residArmed := true
    residCnt := cnt }

/-- A reply waits, with `cnt` TICKs left. -/
def waiting (cnt : Nat) : State :=
  { idle with
    txState := .responseWait
    txb := Memory.writeRange [] 0 [2, 2, 0x40, 0x40]
    txLen := 4
    respCnt := cnt }

/-- A reply is being sent. -/
def sending : State := { waiting 0 with txState := .sending }

/-- A fault is recorded. -/
def faulted : State := { State.resetOf Config.setA with fault := true, faultCause := .illegalEvent }

/-- What a field holds after a result. -/
def after {α : Type} (f : State → α) : Result → Option α
  | .next s => some (f s)
  | .fault _ => none
  | .refused _ => none

/-- One step with the word presented. -/
def stepOn (w : EventWord) (s : State) : Result := step { s with port := [.word w] }

/-! One step of each instruction. -/

/-- V-R1. -/
theorem test_rx_stx : after (fun s => (statusWord s, s.rxb)) (stepOn 0x10000002 idle) = some (0x0011, [(0, 2)]) := by decide
/-- V-B4: the last body byte of the corrected scenario 1. -/
theorem test_rx_last_byte : after (fun s => (statusWord s, s.out)) (stepOn 0x10000035 (inBody 4 [0x00, 0x11, 0x22] 67)) =
    some (0x0030,
      [.tel .std { stx := 2, lge := 4, adr := 0, payload := [0x11, 0x22], bcc := 0x35 },
       .tel .any { stx := 2, lge := 4, adr := 0, payload := [0x11, 0x22], bcc := 0x35 }]) := by decide
/-- V-R17. -/
theorem test_err_in_body : after (fun s => (statusWord s, s.residCnt)) (stepOn 0x20000000 (inBody 4 [0, 0x11] 67)) =
    some (0x0090, 0) := by decide
/-- V-T: the 84th TICK of a stalled frame. -/
theorem test_tick_residual : after statusWord (stepOn 0x30000000 (inBody 5 [0] 1)) = some 0x00B0 := by decide
/-- W3: the last TICK of the delay. -/
theorem test_tick_response : after (fun s => (statusWord s, s.out)) (stepOn 0x30000000 (waiting 1)) =
    some (0x0018, [.txStart [2, 2, 0x40, 0x40]]) := by decide
/-- R100. -/
theorem test_txdone : after statusWord (stepOn 0x40000000 sending) = some 0x0010 := by decide
/-- R104. -/
theorem test_baud : after (fun s => (s.baudStage, s.cfgBaud)) (stepOn 0x50004B00 idle) = some (19200, 9600) := by decide
/-- R105, the example. -/
theorem test_start : after (fun s => (statusWord s, configWord s)) (stepOn 0x60000F00 { State.resetOf Config.setA with baudStage := 9600 }) =
    some (0x0010, 0x0F00) := by decide
/-- R105: no baud staged. -/
theorem test_start_no_baud : after (fun s => (s.fault, s.faultCause)) (stepOn 0x60000F00 (State.resetOf Config.setA)) =
    some (true, .configInvalid) := by decide
/-- R106, the example. -/
theorem test_stop_cancels : after (fun s => (statusWord s, s.respCnt)) (stepOn 0x70000000 (waiting 5)) = some (0, 0) := by decide
/-- R107. -/
theorem test_illegal : after (fun s => (s.fault, s.faultCause)) (stepOn 0x20000003 idle) = some (true, .illegalEvent) := by decide
/-- R84: W4 with an empty payload. -/
theorem test_adr_special : after (·.out) (exec (.adrSpecial 0) (inBody 2 [0x80, 0x80] 1)) =
    some [.tel .spec { stx := 2, lge := 2, adr := 0x80, payload := [], bcc := 0x80 }] := by decide
/-- R85: V-D12. -/
theorem test_adr_mirror : after (fun s => (s.txb, s.txLen, s.respCnt, s.out)) (exec (.adrMirror true 31) (inBody 3 [0x7F, 0xEE, 0x90] 1)) =
    some ([(0, 2), (1, 3), (2, 0x7F), (3, 0xEE), (4, 0x90)], 5, 23, []) := by decide
/-- R86: V-D10. -/
theorem test_adr_broadcast : after (·.out) (exec (.adrBroadcast true 0) (inBody 2 [0x60, 0x60] 1)) =
    some [.tel .bcast { stx := 2, lge := 2, adr := 0x60, payload := [], bcc := 0x60 }] := by decide
/-- R87: a disabled slot emits nothing. -/
theorem test_adr_standard_disabled : after (·.out) (exec (.adrStandard 0) { inBody 2 [0, 0] 1 with cfgEn := 0xE }) = some [] := by decide
/-- R88. -/
theorem test_adr_unaddressed : after (·.out) (exec (.adrUnaddressed true 1) (inBody 2 [0x41, 0x41] 1)) = some [] := by decide
/-- The codes of R17, R18, R22, R25 and R26 at their places in STATUS (R29): those of V-R7 and V-B3
without the run bit, V-R3, and the bits 10:8 of V-X10, V-K1 and V-F15. -/
theorem test_status_codes :
    statusWord { State.resetOf Config.setA with lastResult := .lenReject } = 0x0060 ∧
      statusWord { State.resetOf Config.setA with lastResult := .bccMismatch } = 0x0040 ∧
      statusWord (inBody 2 [] 34) = 0x0012 ∧ statusWord sending = 0x0018 ∧
      statusWord { faulted with faultCause := .txBusy } = 0x0300 ∧
      statusWord { faulted with faultCause := .configInvalid } = 0x0500 ∧ statusWord faulted = 0x0700 := by decide
/-- R36: `rst` leaves the faulted state. -/
theorem test_rst : after statusWord (step { faulted with port := [.rst] }) = some 0 := by decide
/-- The host's question: an event word and an ADR byte placed on the reset state run. -/
theorem test_fetch_event : after (·.fault) (step ((State.resetOf Config.setA).withFetchWord 32 0x60000F00)) = some true := by decide
theorem test_fetch_adr : after statusWord (step ((State.resetOf Config.setA).withFetchWord 8 0x40)) = some 0x0034 := by decide

/-! The states above meet the invariant. -/

theorem idle_inv : Invariant idle := ⟨by constructor <;> decide, fun _ => by constructor <;> decide⟩
theorem stopped_inv : Invariant (State.resetOf Config.setA) := ⟨by constructor <;> decide, fun _ => by constructor <;> decide⟩
theorem inLength_inv : Invariant inLength := ⟨by constructor <;> decide, fun _ => by constructor <;> decide⟩
theorem faulted_inv : Invariant faulted := ⟨by constructor <;> decide, fun h => by cases h⟩
theorem waiting_inv : Invariant (waiting 2) := ⟨by constructor <;> decide, fun _ => by constructor <;> decide⟩
theorem waiting_last_inv : Invariant (waiting 1) := ⟨by constructor <;> decide, fun _ => by constructor <;> decide⟩
theorem sending_inv : Invariant sending := ⟨by constructor <;> decide, fun _ => by constructor <;> decide⟩
theorem body_first_inv : Invariant (inBody 2 [] 34) := ⟨by constructor <;> decide, fun _ => by constructor <;> decide⟩
theorem body_last_inv : Invariant (inBody 2 [7] 1) := ⟨by constructor <;> decide, fun _ => by constructor <;> decide⟩
theorem body_mirror_inv : Invariant (inBody 2 [0x40] 1) := ⟨by constructor <;> decide, fun _ => by constructor <;> decide⟩
theorem body_special_inv : Invariant (inBody 2 [0xFF] 1) := ⟨by constructor <;> decide, fun _ => by constructor <;> decide⟩
theorem body_largest_inv : Invariant (inBody 64 (List.replicate 63 0x40) 1057) :=
  ⟨by constructor <;> decide, fun _ => by constructor <;> decide⟩

/-- A mirror request is one byte short of complete while another reply waits. -/
def mirrorAgain : State := { inBody 2 [0x40] 1 with txState := .responseWait, txb := (waiting 1).txb, txLen := 4, respCnt := 1 }

theorem mirrorAgain_inv : Invariant mirrorAgain := ⟨by constructor <;> decide, fun _ => by constructor <;> decide⟩

/-! Witnesses. -/

theorem witness_DecodeOfEncodeIsIdentity :
    (Instr.illegal 0).wellFormed 0 = true ∧ (Instr.illegal 0xFFFFFFFF).wellFormed 31 = true ∧
      (Instr.baud 0xFFFFFF).wellFormed 0 = true ∧ (Instr.start 31 15).wellFormed 0 = true ∧
      (Instr.adrMirror true 31).wellFormed 31 = true ∧ (Instr.adrBroadcast true 30).wellFormed 31 = true ∧
      (Instr.adrBroadcast false 31).wellFormed 31 = true ∧ (Instr.adrStandard 0).wellFormed 0 = true ∧
      (Instr.adrUnaddressed true 1).wellFormed 0 = true := by decide

theorem witness_IllegalWordsAreThoseOfTheThreeCases :
    decodeEvent 0x0FFFFFFF = .illegal 0x0FFFFFFF ∧ decodeEvent 0x80000000 = .illegal 0x80000000 ∧
      decodeEvent 0x70000001 = .illegal 0x70000001 ∧ decodeEvent 0x20000003 = .illegal 0x20000003 ∧
      idle.fault = false := by decide

theorem witness_ClassifyFollowsTheAdrMap :
    classify 0xFF 31 = .special ∧ classify 0x60 0 = .mirror ∧ classify 0x60 1 = .broadcast ∧
      classify 0x1F 31 = .standard ∧ classify 0x41 0 = .unaddressed := by decide

theorem witness_AssemblerFormsGiveTheirWords : 4 ≤ Config.setA.maxLge := by decide

theorem witness_StepRunsTheDecodedWord :
    ({ idle with port := [.word 0x100000FF] } : State).port = .word 0x100000FF :: [] ∧
      decodeEvent 0x100000FF = .rx 0xFF := by decide

theorem witness_EmptyPortChangesNothing : idle.port = [] := by decide

theorem witness_ResetInputGivesTheResetValues : ({ faulted with port := [.rst] } : State).port = .rst :: [] := by decide

theorem witness_LineEventsIgnoredWhileStopped : (State.resetOf Config.setA).run = .stopped := by decide

theorem witness_RxInAwaitStart :
    idle.fault = false ∧ idle.run = .running ∧ idle.rxState = .awaitStart ∧ (0x03 : Byte) ≠ 0x02 := by decide

theorem witness_RxAcceptsALegalLength :
    Invariant inLength ∧ inLength.fault = false ∧ inLength.rxState = .awaitLength ∧ inLength.params.maxLge = 64 ∧
      2 ≤ (2 : Byte).toNat ∧ (64 : Byte).toNat ≤ inLength.params.maxLge := ⟨inLength_inv, by decide⟩

theorem witness_RxRejectsAnIllegalLength :
    inLength.fault = false ∧ inLength.run = .running ∧ inLength.rxState = .awaitLength ∧
      (1 : Byte).toNat < 2 ∧ inLength.params.maxLge < (65 : Byte).toNat := by decide

theorem witness_RxCapturesABodyByte :
    (Invariant (inBody 2 [] 34) ∧ (inBody 2 [] 34).fault = false ∧ (inBody 2 [] 34).rxState = .awaitBody ∧
      Memory.read (inBody 2 [] 34).rxb 1 = some 2 ∧ (inBody 2 [] 34).bodyCount + 1 ≠ 2) ∧
    (Invariant (inBody 64 (List.replicate 63 0x40) 1057) ∧
      (inBody 64 (List.replicate 63 0x40) 1057).fault = false ∧
      (inBody 64 (List.replicate 63 0x40) 1057).rxState = .awaitBody ∧
      Memory.read (inBody 64 (List.replicate 63 0x40) 1057).rxb 1 = some 64 ∧
      (inBody 64 (List.replicate 63 0x40) 1057).bodyCount + 1 = 64) :=
  ⟨⟨body_first_inv, by decide⟩, ⟨body_largest_inv, by decide⟩⟩

theorem witness_BccMismatchDropsTheFrame :
    Invariant (inBody 2 [7] 1) ∧ (inBody 2 [7] 1).fault = false ∧
      completedFrame 0 (inBody 2 [7] 1) = some [2, 2, 7, 0] ∧ ¬validFrame [2, 2, 7, 0] :=
  ⟨body_last_inv, by decide, by decide, by unfold validFrame; decide⟩

theorem witness_ValidFrameIsDispatched :
    (Invariant (inBody 2 [7] 1) ∧ (inBody 2 [7] 1).fault = false ∧
      completedFrame 7 (inBody 2 [7] 1) = some [2, 2, 7, 7] ∧ validFrame [2, 2, 7, 7] ∧
      classify (adrOf [2, 2, 7, 7]) (inBody 2 [7] 1).cfgNode = .unaddressed) ∧
    (Invariant (inBody 2 [0xFF] 1) ∧ (inBody 2 [0xFF] 1).fault = false ∧
      completedFrame 0xFF (inBody 2 [0xFF] 1) = some [2, 2, 0xFF, 0xFF] ∧ validFrame [2, 2, 0xFF, 0xFF] ∧
      classify (adrOf [2, 2, 0xFF, 0xFF]) (inBody 2 [0xFF] 1).cfgNode = .special) :=
  ⟨⟨body_last_inv, by decide, by decide, by unfold validFrame; decide, by decide⟩,
    ⟨body_special_inv, by decide, by decide, by unfold validFrame; decide, by decide⟩⟩

/-- Also for LastByteRunsTheDecodedAdrInstruction and MirrorReplyStartsAtTheLastTickOfTheDelay. -/
theorem witness_ValidMirrorFrameIsScheduled :
    Invariant (inBody 2 [0x40] 1) ∧ (inBody 2 [0x40] 1).fault = false ∧
      completedFrame 0x40 (inBody 2 [0x40] 1) = some [2, 2, 0x40, 0x40] ∧ validFrame [2, 2, 0x40, 0x40] ∧
      classify (adrOf [2, 2, 0x40, 0x40]) (inBody 2 [0x40] 1).cfgNode = .mirror ∧
      (inBody 2 [0x40] 1).txState = .idle ∧ respLoad (inBody 2 [0x40] 1) = 23 :=
  ⟨body_mirror_inv, by decide, by decide, by unfold validFrame; decide, by decide, by decide, by decide⟩

theorem witness_MirrorWhileBusyFaults :
    Invariant mirrorAgain ∧ mirrorAgain.fault = false ∧
      completedFrame 0x40 mirrorAgain = some [2, 2, 0x40, 0x40] ∧ validFrame [2, 2, 0x40, 0x40] ∧
      mirrorWhileBusy mirrorAgain [2, 2, 0x40, 0x40] :=
  ⟨mirrorAgain_inv, by decide, by decide, by unfold validFrame; decide, by decide, by decide⟩

theorem witness_LastByteRunsTheDecodedAdrInstruction :
    Invariant (inBody 2 [7] 1) ∧ (inBody 2 [7] 1).fault = false ∧
      completedFrame 7 (inBody 2 [7] 1) = some [2, 2, 7, 7] ∧ validFrame [2, 2, 7, 7] :=
  ⟨body_last_inv, by decide, by decide, by unfold validFrame; decide⟩

theorem witness_LineErrorAbortsTheFrame :
    (Invariant faulted ∧ faulted.fault = true) ∧
    (Invariant (State.resetOf Config.setA) ∧ (State.resetOf Config.setA).run = .stopped) ∧
    (Invariant idle ∧ idle.rxState = .awaitStart) ∧
    (Invariant inLength ∧ inLength.fault = false ∧ inLength.run = .running ∧ inLength.rxState ≠ .awaitStart) :=
  ⟨⟨faulted_inv, by decide⟩, ⟨stopped_inv, by decide⟩, ⟨idle_inv, by decide⟩, ⟨inLength_inv, by decide⟩⟩

/-- The empty payload and the longest one, and a mirror request with an idle transmitter. -/
theorem witness_TelegramIsReceivedAndDispatchedOnce :
    Invariant idle ∧ idle.fault = false ∧ idle.run = .running ∧ idle.rxState = .awaitStart ∧
      ([] : List Byte).length + 2 ≤ idle.params.maxLge ∧ (List.replicate 62 (0x5A : Byte)).length + 2 ≤ idle.params.maxLge ∧
      classify (adrOf (frameBytes 0x40 [])) idle.cfgNode = .mirror ∧ ¬mirrorWhileBusy idle (frameBytes 0x40 []) ∧
      ({ idle with port := rxInputs (frameBytes 0x40 []) } : State).port = rxInputs (frameBytes 0x40 []) ++ [] :=
  ⟨idle_inv, by decide, by decide, by decide, by decide, by decide, by decide, fun h => h.2 (by decide), by decide⟩

theorem witness_TelegramWithFlippedBccIsDropped :
    Invariant idle ∧ idle.fault = false ∧ idle.run = .running ∧ idle.rxState = .awaitStart ∧
      (List.replicate 62 (0x5A : Byte)).length + 2 ≤ idle.params.maxLge ∧
      ({ idle with port := rxInputs (badFrameBytes 0 []) } : State).port = rxInputs (badFrameBytes 0 []) ++ [] :=
  ⟨idle_inv, by decide, by decide, by decide, by decide, by decide⟩

theorem witness_OneCorruptedByteFailsTheCheck :
    Invariant (inBody 2 [7] 1) ∧ (inBody 2 [7] 1).fault = false ∧
      completedFrame 7 (inBody 2 [7] 1) = some [2, 2, 7, 7] ∧ validFrame [2, 2, 7, 7] ∧
      (0 ≤ lgeOf (inBody 2 [7] 1) ∧ Memory.read (inBody 2 [7] 1).rxb 0 ≠ some 3) ∧
      (2 = lgeOf (inBody 2 [7] 1) ∧ Memory.read (inBody 2 [7] 1).rxb 2 ≠ some 6) ∧ (6 : Byte) ≠ 7 :=
  ⟨body_last_inv, by decide, by decide, by unfold validFrame; decide, by decide, by decide, by decide⟩

theorem witness_CallbackClassesEmitTheirRecord :
    (inBody 2 [0x80, 0x80] 1).fault = false ∧ FrameInRxb (inBody 2 [0x80, 0x80] 1) 2 [2, 2, 0x80, 0x80] :=
  ⟨by decide, by decide, by decide, by decide, by decide⟩

theorem witness_MirrorActionCopiesAndSchedules :
    (sending.fault = false ∧ sending.txState ≠ .idle) ∧
    ((inBody 2 [0x40, 0x40] 1).fault = false ∧ (inBody 2 [0x40, 0x40] 1).txState = .idle ∧
      FrameInRxb (inBody 2 [0x40, 0x40] 1) 2 [2, 2, 0x40, 0x40] ∧ (inBody 2 [0x40, 0x40] 1).cfgBaud ≠ 0 ∧
      (22 * (inBody 2 [0x40, 0x40] 1).params.tickHz + (inBody 2 [0x40, 0x40] 1).cfgBaud.toNat - 1) /
        (inBody 2 [0x40, 0x40] 1).cfgBaud.toNat + 1 < 2 ^ (inBody 2 [0x40, 0x40] 1).params.cntW) :=
  ⟨by decide, by decide, by decide, ⟨by decide, by decide, by decide, by decide⟩, by decide, by decide⟩

/-- Both timers one TICK from their end, both further away, and the faulted and the stopped block. -/
theorem witness_TickRunsBothArms :
    (Invariant mirrorAgain ∧ mirrorAgain.fault = false ∧ residExpires mirrorAgain = true ∧ respExpires mirrorAgain = true ∧
      Memory.readRange mirrorAgain.txb 0 mirrorAgain.txLen.toNat = some [2, 2, 0x40, 0x40]) ∧
    (Invariant (waiting 2) ∧ (waiting 2).fault = false ∧ respExpires (waiting 2) = false ∧
      Memory.readRange (waiting 2).txb 0 (waiting 2).txLen.toNat = some [2, 2, 0x40, 0x40]) ∧
    (Invariant faulted ∧ faulted.fault = true ∧ faulted.txState ≠ .responseWait) ∧
    (Invariant (State.resetOf Config.setA) ∧ (State.resetOf Config.setA).run = .stopped) :=
  ⟨⟨mirrorAgain_inv, by decide⟩, ⟨waiting_inv, by decide⟩, ⟨faulted_inv, by decide⟩, ⟨stopped_inv, by decide⟩⟩

theorem witness_TxDoneEndsATransmission :
    (sending.fault = false ∧ sending.txState = .sending) ∧ (faulted.fault = true) ∧ (waiting 1).txState ≠ .sending := by
  decide

theorem witness_EveryLoadFitsWhereTheLargestDoes :
    Config.setA.Wf ∧ (9600 : Baud) ≠ 0 ∧
      residLoadAt Config.setA 9600 Config.setA.maxLge ≤ 2 ^ Config.setA.cntW - 1 := by decide

/-- V-K: the smallest width that holds the largest load of set A, 1057. -/
theorem witness_EveryLoadFits_smallest_width :
    residLoadAt { Config.setA with cntW := 11 } 9600 64 ≤ 2 ^ 11 - 1 ∧
      ¬residLoadAt { Config.setA with cntW := 10 } 9600 64 ≤ 2 ^ 10 - 1 := by decide

theorem witness_GuardTickKeepsTheProtocolTimes : Config.setB.Wf ∧ (0xFFFFFF : Baud) ≠ 0 ∧ 2 ≤ 2 := by decide

theorem witness_StalledFrameIsAbortedAtTheLastTick :
    Invariant (inBody 2 [] 34) ∧ (inBody 2 [] 34).fault = false ∧ (inBody 2 [] 34).rxState = .awaitBody ∧
      34 = (inBody 2 [] 34).residCnt ∧ 33 < (inBody 2 [] 34).residCnt ∧
      ({ inBody 2 [] 34 with port := tickInputs 34 } : State).port = tickInputs 34 ++ [] :=
  ⟨body_first_inv, by decide⟩

theorem witness_MirrorReplyStartsAtTheLastTickOfTheDelay :
    23 = respLoad (inBody 2 [0x40] 1) ∧ 22 < respLoad (inBody 2 [0x40] 1) ∧
      ({ inBody 2 [0x40] 1 with port := .word (rxWord 0x40) :: tickInputs 23 } : State).port =
        .word (rxWord 0x40) :: (tickInputs 23 ++ []) := by decide

theorem witness_ResponseDelayIsFixed :
    exec (.rx 2) (waiting 1) = .next { waiting 1 with rxb := [(0, 2)], rxState := .awaitLength } ∧
      (waiting 1).txState = .responseWait ∧ (waiting 1).fault = false := ⟨rfl, by decide⟩

theorem witness_TransmissionsStartAndEndOnce :
    (Invariant (waiting 1) ∧ (waiting 1).fault = false ∧ after (·.fault) (exec .tick (waiting 1)) = some false) ∧
    (Invariant sending ∧ sending.fault = false ∧ after (·.fault) (exec .txdone sending) = some false) :=
  ⟨⟨waiting_last_inv, by decide⟩, ⟨sending_inv, by decide⟩⟩

theorem witness_ReceptionIgnoresTheTransmitter :
    after (·.fault) (exec (.rx 7) (inBody 2 [7] 1)) = some false ∧
      after (·.fault) (exec (.rx 7) { inBody 2 [7] 1 with txState := .sending, txb := [], txLen := 4, respCnt := 0 }) =
        some false := by decide

theorem witness_SetBaudStagesTheBaud : idle.fault = false ∧ faulted.fault = true := by decide

/-- Baud 0, the widths 10 and 11 around the largest load 1057 (V-K), in either `run` state. -/
theorem witness_StartLatchesTheConfiguration :
    (State.resetOf Config.setA).fault = false ∧ (State.resetOf Config.setA).baudStage = 0 ∧
      (State.resetOf Config.setA).run = .stopped ∧ idle.fault = false ∧ idle.baudStage ≠ 0 ∧ idle.run = .running ∧
      faulted.fault = true ∧
      2 ^ 10 - 1 < (33 * 64 * 9600 + 2 * idle.baudStage.toNat - 1) / (2 * idle.baudStage.toNat) + 1 ∧
      (33 * 64 * 9600 + 2 * idle.baudStage.toNat - 1) / (2 * idle.baudStage.toNat) + 1 ≤ 2 ^ 11 - 1 := by decide

theorem witness_StopQuiescesTheBlock :
    idle.fault = false ∧ (Invariant faulted ∧ faulted.fault = true) ∧
      (Invariant (State.resetOf Config.setA) ∧ (State.resetOf Config.setA).run = .stopped) :=
  ⟨by decide, ⟨faulted_inv, by decide⟩, ⟨stopped_inv, by decide⟩⟩

theorem witness_IllegalWordFaults : idle.fault = false ∧ faulted.fault = true := by decide

theorem witness_FaultIsAbsorbing :
    faulted.fault = true ∧ ({ faulted with port := [.word 0] } : State).port = .word 0 :: [] ∧
      ({ faulted with port := [.rst] } : State).port = .rst :: [] := by decide

theorem witness_FaultsAreRaisedExactlyAsListed :
    (Invariant mirrorAgain ∧ mirrorAgain.fault = false ∧ Raises (.rx 0x40) mirrorAgain .txBusy) ∧
    (Invariant (State.resetOf Config.setA) ∧ Raises (.start 0 0) (State.resetOf Config.setA) .configInvalid) ∧
    (Invariant idle ∧ Raises (.illegal 0) idle .illegalEvent) ∧
    (Invariant (waiting 1) ∧ Raises (.adrMirror false 0) (waiting 1) .txBusy) :=
  ⟨⟨mirrorAgain_inv, by decide, rfl, [2, 2, 0x40, 0x40], by decide, by unfold validFrame; decide, by decide, by decide⟩,
    ⟨stopped_inv, rfl, .inl rfl⟩, ⟨idle_inv, rfl⟩, ⟨waiting_last_inv, rfl, by decide⟩⟩

theorem witness_ResetStateMeetsTheInvariant : Config.setA.Wf ∧ ({ maxLge := 2, tickHz := 1, cntW := 1 } : Params).Wf ∧
    ({ maxLge := 255, tickHz := 1, cntW := 1 } : Params).Wf := by decide

theorem witness_EveryStepKeepsTheInvariant :
    Invariant idle ∧ step idle = .next idle ∧
      after (·.rxState) (stepOn 0x10000002 idle) = some .awaitLength := ⟨idle_inv, rfl, by decide⟩

theorem witness_NoStepStopsUnderTheInvariant : Invariant mirrorAgain ∧ Invariant faulted := ⟨mirrorAgain_inv, faulted_inv⟩

theorem witness_ReachedStatesMeetTheReceiveInvariants : Config.setA.Wf := by decide

theorem witness_ConfigurationIsWrittenByControlEventsOnly :
    after (fun t => (t.fault, t.cfgNode)) (exec (.start 9 0) idle) = some (false, 9) ∧
      after (·.fault) (exec (.rx 2) idle) = some false := by decide

/-- A byte stored in each receive state, and none stored. -/
theorem witness_OnlyReceivedCharactersWriteRxb :
    (rxStoreIndex 2 idle = some 0 ∧ after (·.fault) (exec (.rx 2) idle) = some false) ∧
    (rxStoreIndex 3 idle = none ∧ after (·.fault) (exec (.rx 3) idle) = some false) ∧
    (rxStoreIndex 64 inLength = some 1 ∧ after (·.fault) (exec (.rx 64) inLength) = some false) ∧
    (rxStoreIndex 65 inLength = none ∧ after (·.fault) (exec (.rx 65) inLength) = some false) ∧
    (rxStoreIndex 7 (inBody 2 [7] 1) = some 3 ∧ after (·.fault) (exec (.rx 7) (inBody 2 [7] 1)) = some false) := by decide

theorem witness_OnlyTheMirrorActionWritesTxb :
    Invariant (inBody 2 [0x40] 1) ∧ (inBody 2 [0x40] 1).fault = false ∧
      after (fun t => (t.fault, t.txLen)) (exec (.rx 0x40) (inBody 2 [0x40] 1)) = some (false, 4) :=
  ⟨body_mirror_inv, by decide⟩

theorem witness_LastResultIsWrittenAtTheEndOfAFrameAttempt :
    Invariant inLength ∧ inLength.fault = false ∧
      after (fun t => (t.fault, t.lastResult)) (exec (.rx 65) inLength) = some (false, .lenReject) :=
  ⟨inLength_inv, by decide⟩

theorem witness_BuffersKeepTheirForm :
    Memory.wf (inBody 2 [7] 1).params.bufBytes (inBody 2 [7] 1).rxb = true ∧
      Memory.wf (inBody 2 [7] 1).params.bufBytes (inBody 2 [7] 1).txb = true ∧
      after (·.fault) (exec (.rx 7) (inBody 2 [7] 1)) = some false := by decide

end Sys2Proof.Tests
end

section
/-! What `step` does with the next input of the port, and the two statements about it (00_scope.md R7, 10_state.md R34). -/

namespace Sys2Proof.Machine

variable {s : State} {w : EventWord} {rest : List PortInput}

theorem takeInput_of_port_empty (h : s.port = []) : takeInput s = .nothing := by simp only [takeInput, h]

theorem takeInput_of_port_word (h : s.port = .word w :: rest) : takeInput s = .word w rest := by
  simp only [takeInput, h]

theorem step_of_port_empty (h : s.port = []) : step s = .next s := by
  simp only [step, takeInput_of_port_empty h]

theorem step_of_port_word (h : s.port = .word w :: rest) : step s = exec (decodeEvent w) (beginStep rest s) := by
  simp only [step, takeInput_of_port_word h]

end Sys2Proof.Machine

namespace Sys2Proof.Proofs

open Sys2Proof.Machine

/-- Settles O7: the word at the port is taken and decoded, and `beginStep` is the state on which the step runs it. -/
theorem stepRunsTheDecodedWord : Obligations.StepRunsTheDecodedWord := by
  intro s w rest i hport hdecode
  calc step s = exec (decodeEvent w) (beginStep rest s) := step_of_port_word hport
    _ = exec i (beginStep rest s) := by rw [hdecode]

/-- Settles O8: the step finds no input to take. -/
theorem emptyPortChangesNothing : Obligations.EmptyPortChangesNothing :=
  fun _ hport => step_of_port_empty hport

end Sys2Proof.Proofs
end

section
/-! Reset and the read port: the reset values of R40, the layouts of the STATUS, CONFIG, BAUD and STAGE words (10_state.md
R29, R30, R36). -/

namespace Sys2Proof.Machine

variable {s : State} {rest : List PortInput}

theorem takeInput_of_port_rst (h : s.port = .rst :: rest) : takeInput s = .rst rest := by simp only [takeInput, h]

theorem step_of_port_rst (h : s.port = .rst :: rest) : step s = .next (assertReset rest s) := by
  simp only [step, takeInput_of_port_rst h]

section Fields

variable (s)

theorem statusWord_rxState : (statusWord s).extractLsb' 0 2 = s.rxState.code := BitVec.extractLsb'_append_eq_right

theorem statusWord_txState : (statusWord s).extractLsb' 2 2 = s.txState.code := by
  rw [statusWord, BitVec.extractLsb'_append_eq_of_le (by decide)]
  exact BitVec.extractLsb'_append_eq_right

theorem statusWord_run : (statusWord s).extractLsb' 4 1 = s.run.code := by
  rw [statusWord]
  iterate 2 rw [BitVec.extractLsb'_append_eq_of_le (by decide)]
  exact BitVec.extractLsb'_append_eq_right

theorem statusWord_lastResult : (statusWord s).extractLsb' 5 3 = s.lastResult.code := by
  rw [statusWord]
  iterate 3 rw [BitVec.extractLsb'_append_eq_of_le (by decide)]
  exact BitVec.extractLsb'_append_eq_right

theorem statusWord_fault : (statusWord s).extractLsb' 8 1 = BitVec.ofBool s.fault := by
  rw [statusWord]
  iterate 4 rw [BitVec.extractLsb'_append_eq_of_le (by decide)]
  exact BitVec.extractLsb'_append_eq_right

theorem statusWord_faultCause : (statusWord s).extractLsb' 9 2 = s.faultCause.code := by
  rw [statusWord]
  iterate 5 rw [BitVec.extractLsb'_append_eq_of_le (by decide)]
  exact BitVec.extractLsb'_append_eq_right

theorem statusWord_reserved : (statusWord s).extractLsb' 11 5 = 0 := by
  rw [statusWord]
  iterate 5 rw [BitVec.extractLsb'_append_eq_of_le (by decide)]
  exact BitVec.extractLsb'_append_eq_left

theorem configWord_node : (configWord s).extractLsb' 0 5 = s.cfgNode := BitVec.extractLsb'_append_eq_right

theorem configWord_reserved_low : (configWord s).extractLsb' 5 3 = 0 := by
  rw [configWord, BitVec.extractLsb'_append_eq_of_le (by decide)]
  exact BitVec.extractLsb'_append_eq_right

theorem configWord_enables : (configWord s).extractLsb' 8 4 = s.cfgEn := by
  rw [configWord]
  iterate 2 rw [BitVec.extractLsb'_append_eq_of_le (by decide)]
  exact BitVec.extractLsb'_append_eq_right

theorem configWord_reserved_mid : (configWord s).extractLsb' 12 4 = 0 := by
  rw [configWord]
  iterate 3 rw [BitVec.extractLsb'_append_eq_of_le (by decide)]
  exact BitVec.extractLsb'_append_eq_right

theorem configWord_reserved_high : (configWord s).extractLsb' 16 16 = 0 := by
  rw [configWord]
  iterate 3 rw [BitVec.extractLsb'_append_eq_of_le (by decide)]
  exact BitVec.extractLsb'_append_eq_left

end Fields

end Sys2Proof.Machine

namespace Sys2Proof.Proofs

open Sys2Proof.Machine Sys2Proof.Statements

/-- Settles O10: each field of STATUS by its own lemma, the codes by evaluation. -/
theorem statusWordHasItsLayout : Obligations.StatusWordHasItsLayout := fun s =>
  ⟨statusWord_rxState s, statusWord_txState s, statusWord_run s, statusWord_lastResult s, statusWord_fault s,
    statusWord_faultCause s, statusWord_reserved s, by decide⟩

/-- Settles O11: BAUD and STAGE are one value under eight reserved bits. -/
theorem configurationWordsHaveTheirLayout : Obligations.ConfigurationWordsHaveTheirLayout := fun s =>
  ⟨configWord_node s, configWord_reserved_low s, configWord_enables s, configWord_reserved_mid s,
    configWord_reserved_high s, BitVec.extractLsb'_append_eq_right, BitVec.extractLsb'_append_eq_left,
    BitVec.extractLsb'_append_eq_right, BitVec.extractLsb'_append_eq_left⟩

theorem resetOf_atReset (P : Params) : AtReset (State.resetOf P) := by simp [AtReset]

/-- Settles O9: `rst` takes every element from `State.resetOf`. -/
theorem resetInputGivesTheResetValues : Obligations.ResetInputGivesTheResetValues :=
  ⟨resetOf_atReset _, resetOf_atReset, fun s _ hport => ⟨_, step_of_port_rst hport, resetOf_atReset s.params⟩⟩

end Sys2Proof.Proofs
end

section
/-! What an instruction can do, said once (inversion): an instruction that answers a next state raises a fault or makes one
of the transitions listed in `Transition`. The proofs about every instruction are case analyses of that list. -/

namespace Sys2Proof.Machine

variable {i : Instr} {s t u : State} {d : Byte}

/-! Equations for the instructions that read no buffer. -/

theorem exec_faulted (i : Instr) (h : s.fault = true) : exec i s = .next s := by
  cases i <;> simp [exec, execRx, execErr, execTick, execTxdone, execBaud, execStart, execStop, execIllegal, execAdrSpecial,
    execAdrMirror, execAdrBroadcast, execAdrStandard, execAdrUnaddressed, unlessFaulted_faulted h]

theorem execRx_stopped (d : Byte) (h : s.run = .stopped) : execRx d s = .next s := by
  simp [execRx, unlessFaulted, h]

theorem execErr_live (k : LineErr) (hf : s.fault = false) :
    execErr k s = .next (if s.run = .stopped then s
      else if s.rxState = .awaitStart then returnToStart s else returnToStart (setLastResult .lineError s)) := by
  rw [execErr, unlessFaulted_live hf]
  cases s.run with
  | stopped => rfl
  | running =>
    by_cases hs : s.rxState = .awaitStart <;> simp [hs]

theorem execTick_live (hf : s.fault = false) : execTick s = tickResp (tickResid s) := by
  rw [execTick, unlessFaulted_live hf]

theorem execTxdone_live (hf : s.fault = false) :
    execTxdone s = .next (if s.txState = .sending then { s with txState := .idle } else s) := by
  rw [execTxdone, unlessFaulted_live hf]
  split <;> rfl

theorem execBaud_live (b : Baud) (hf : s.fault = false) : execBaud b s = .next { s with baudStage := b } := by
  rw [execBaud, unlessFaulted_live hf]

theorem execStart_live (nd : Node) (en : Enables) (hf : s.fault = false) :
    execStart nd en s = latchConfig nd en (if s.run = .running then stopActions s else s) := by
  rw [execStart, unlessFaulted_live hf]
  cases s.run <;> rfl

theorem execStop_live (hf : s.fault = false) : execStop s = .next (stopActions s) := by
  rw [execStop, unlessFaulted_live hf]

theorem execIllegal_live (w : EventWord) (hf : s.fault = false) :
    execIllegal w s = .next (raiseFault .illegalEvent s) := by
  rw [execIllegal, unlessFaulted_live hf]

/-- START with a configuration that is latched (R105). -/
def latched (nd : Node) (en : Enables) (s : State) : State :=
  { s with cfgNode := nd, cfgEn := en, cfgBaud := s.baudStage, lastResult := .none, run := .running }

theorem latchConfig_eq (nd : Node) (en : Enables) (s : State) :
    latchConfig nd en s =
      .next (if s.baudStage = 0 ∨ loadTooLarge s.params s.baudStage = true then raiseFault .configInvalid s
        else latched nd en s) := by
  unfold latchConfig
  by_cases h0 : s.baudStage = 0
  · rw [if_pos h0, if_pos (.inl h0)]
  · by_cases h1 : loadTooLarge s.params s.baudStage = true
    · rw [if_neg h0, if_pos h1, if_pos (.inr h1)]
    · rw [if_neg h0, if_neg h1, if_neg (not_or.mpr ⟨h0, h1⟩)]
      rfl

/-! TICK. -/

/-- What the residual arm of TICK can do (R96). -/
theorem tickResid_cases (s : State) :
    (s.residArmed = false ∧ tickResid s = s) ∨
    (s.residArmed = true ∧ decCnt s.params s.residCnt ≠ 0 ∧
      tickResid s = { s with residCnt := decCnt s.params s.residCnt }) ∨
    (s.residArmed = true ∧ decCnt s.params s.residCnt = 0 ∧
      tickResid s = returnToStart (setLastResult .residTimeout s)) := by
  unfold tickResid
  split
  · rename_i ha
    split
    · rename_i h0; exact .inr (.inr ⟨ha, h0, rfl⟩)
    · rename_i h0; exact .inr (.inl ⟨ha, h0, rfl⟩)
  · rename_i ha; exact .inl ⟨by simpa using ha, rfl⟩

/-- The residual arm writes the receiver and `last_result` only. -/
theorem tickResid_frame (s : State) : ∃ rx n armed cnt r, tickResid s =
    { s with rxState := rx, bodyCount := n, residArmed := armed, residCnt := cnt, lastResult := r } := by
  rcases tickResid_cases s with ⟨-, h⟩ | ⟨-, -, h⟩ | ⟨-, -, h⟩ <;> exact ⟨_, _, _, _, _, h⟩

/-- What the response arm of TICK can do (R97, R99). -/
theorem tickResp_cases (h : tickResp s = .next t) :
    (s.txState ≠ .responseWait ∧ t = s) ∨
    (s.txState = .responseWait ∧ decCnt s.params s.respCnt ≠ 0 ∧
      t = { s with respCnt := decCnt s.params s.respCnt }) ∨
    (s.txState = .responseWait ∧ ∃ bytes, Memory.readRange s.txb 0 s.txLen.toNat = some bytes ∧
      t = { s with
        respCnt := decCnt s.params s.respCnt
        txState := .sending
        out := s.out ++ [.txStart bytes] }) := by
  rcases tickResp_next_iff.mp h with h | h | ⟨hw, -, h⟩
  · exact .inl h
  · exact .inr (.inl h)
  · obtain ⟨bytes, hb, rfl⟩ := txStart_next_iff.mp h
    exact .inr (.inr ⟨hw, bytes, (txbRange_ok_iff.mp hb).2, rfl⟩)

/-! RX_CHAR in a frame. -/

/-- A legal LGE has been accepted (R73). -/
def accepted (d : Byte) (s : State) : State :=
  { s with
    rxb := Memory.write s.rxb 1 d
    bodyCount := 0
    residCnt := toCnt s.params (residLoad s d.toNat)
    residArmed := true
    rxState := .awaitBody }

/-- `d` is the last body byte of a frame, whose BCC check answers `ok` (R75, R80). -/
structure LastByte (d : Byte) (ok : Bool) (s : State) : Prop where
  running : s.run = .running
  inBody : s.rxState = .awaitBody
  inBuffer : 2 + s.bodyCount.toNat < s.params.bufBytes
  checked : ∃ lge, Memory.read s.rxb 1 = some lge ∧ s.bodyCount + 1 = lge ∧
    bccMatches (captured d s) lge.toNat = .ok ok

/-- Capturing a body byte leaves the LGE byte. -/
theorem captured_read_one (d : Byte) (s : State) : Memory.read (captured d s).rxb 1 = Memory.read s.rxb 1 :=
  Memory.read_write_ne _ _ (by omega)

/-- Completing a frame without a fault writes the result of its BCC check (R76, R80). -/
theorem bccMatches_of_completeFrame (hf : s.fault = false) (h : completeFrame s = .next t) (ht : t.fault = false) :
    ∃ lge, Memory.read s.rxb 1 = some lge ∧ bccMatches s lge.toNat = .ok (t.lastResult == .ok) := by
  obtain ⟨lge, ok, hl, hm, hr⟩ := completeFrame_next_iff.mp h
  refine ⟨lge, (rxbByte_ok_iff.mp hl).2, ?_⟩
  rcases hr with ⟨rfl, rfl⟩ | ⟨rfl, u, hd, hu⟩
  · exact hm
  · obtain ⟨adr, -, hc⟩ := dispatchFrame_cases (by exact hf) hd
    have hok : u.fault = true ∨ u.lastResult = .ok := by
      rcases hc with ⟨-, -, rfl⟩ | ⟨-, -, v, ⟨_, _, _, _, _, rfl⟩, _, rfl, -⟩ | ⟨-, _, rfl, -⟩
      · exact .inl rfl
      · exact .inr rfl
      · exact .inr rfl
    rcases hu with ⟨hu, rfl⟩ | ⟨hu, rfl⟩
    · simp [hu] at ht
    · rw [returnToStart_lastResult, hok.resolve_left (by simp [hu])]
      exact hm

/-! The transitions. -/

/-- What an instruction can do to a state without a fault, where it raises none: one constructor for each branch of the
rules. -/
inductive Transition (s : State) : Instr → State → Prop
  /-- Nothing, or the records of a callback class (R70, R72, R79, R84 to R88, R100). -/
  | telegrams {i : Instr} {t : State} : AddsTelegrams s t → Transition s i t
  /-- STX in AWAIT_START (R72). -/
  | storeStx : s.run = .running → s.rxState = .awaitStart →
      Transition s (.rx Config.stxValue)
        { s with rxb := Memory.write s.rxb 0 Config.stxValue, rxState := .awaitLength }
  /-- A legal LGE (R73). -/
  | acceptLge {d : Byte} : s.run = .running → s.rxState = .awaitLength →
      Config.minLge ≤ d.toNat → d.toNat ≤ s.params.maxLge →
      Transition s (.rx d) (accepted d s)
  /-- Any other LGE (R74). -/
  | rejectLge {d : Byte} : s.rxState = .awaitLength → ¬(Config.minLge ≤ d.toNat ∧ d.toNat ≤ s.params.maxLge) →
      Transition s (.rx d) (returnToStart (setLastResult .lenReject s))
  /-- A body byte before the last (R75). -/
  | storeBody {d lge : Byte} : s.rxState = .awaitBody → 2 + s.bodyCount.toNat < s.params.bufBytes →
      Memory.read s.rxb 1 = some lge → s.bodyCount + 1 ≠ lge → Transition s (.rx d) (captured d s)
  /-- The last byte of a frame that fails its check (R76, R80). -/
  | mismatch {d : Byte} : LastByte d false s →
      Transition s (.rx d) (returnToStart (setLastResult .bccMismatch (captured d s)))
  /-- The last byte of a valid frame that is no mirror request (R76, R83). -/
  | dispatch {d : Byte} {t : State} : LastByte d true s → AddsTelegrams (returnToStart (setLastResult .ok (captured d s))) t →
      Transition s (.rx d) t
  /-- The last byte of a valid mirror request (R76, R85). -/
  | mirrorFrame {d : Byte} {u t : State} : LastByte d true s → s.txState = .idle → Mirrored (captured d s) u →
      AddsTelegrams (returnToStart (setLastResult .ok u)) t → Transition s (.rx d) t
  /-- RX_ERR in AWAIT_START (R79). -/
  | idleError {k} : s.rxState = .awaitStart → Transition s (.err k) (returnToStart s)
  /-- RX_ERR in a frame (R79). -/
  | lineError {k} : s.rxState ≠ .awaitStart →
      Transition s (.err k) (returnToStart (setLastResult .lineError s))
  /-- TICK (R95). -/
  | tick {t : State} : tickResp (tickResid s) = .next t → Transition s .tick t
  /-- The end of a transmission (R100). -/
  | txdone : s.txState = .sending → Transition s .txdone { s with txState := .idle }
  /-- SET_BAUD (R104). -/
  | baud {b} : Transition s (.baud b) { s with baudStage := b }
  /-- START with a valid configuration, after the STOP actions where the block is running (R105). -/
  | start {nd en} : s.baudStage ≠ 0 → loadTooLarge s.params s.baudStage = false →
      Transition s (.start nd en) (latched nd en (if s.run = .running then stopActions s else s))
  /-- STOP (R106). -/
  | stop : Transition s .stop (stopActions s)
  /-- The class action of a mirror request, by itself (R85). -/
  | adrMirror {b5 : Bool} {node : Node} {t : State} : s.txState = .idle → Mirrored s t → Transition s (.adrMirror b5 node) t

theorem Transition.refl (s : State) (i : Instr) : Transition s i s := .telegrams (AddsTelegrams.refl s)

/-- A fault with a cause has been raised in a step on `s` (R109). -/
def Faults (s t : State) : Prop := ∃ c u, c ≠ .none ∧ u.params = s.params ∧ t = raiseFault c u

theorem Faults.fault (h : Faults s t) : t.fault = true := by
  obtain ⟨c, u, -, -, rfl⟩ := h
  rfl

/-- What the last byte of a frame can do (R76). -/
theorem completeFrame_transition (hf : s.fault = false) (hr : s.run = .running) (hs : s.rxState = .awaitBody)
    (hb : 2 + s.bodyCount.toNat < s.params.bufBytes) {lge : Byte} (hl : Memory.read s.rxb 1 = some lge)
    (hc : s.bodyCount + 1 = lge) (h : completeFrame (captured d s) = .next t) :
    Faults s t ∨ Transition s (.rx d) t := by
  have hf' : (captured d s).fault = false := hf
  have last (ht : t.fault = false) : LastByte d (t.lastResult == .ok) s := by
    obtain ⟨l, hl', hm⟩ := bccMatches_of_completeFrame hf' h ht
    rw [captured_read_one, hl, Option.some.injEq] at hl'
    subst hl'
    exact ⟨hr, hs, hb, lge, hl, hc, hm⟩
  rcases completeFrame_cases hf' h with rfl | ⟨-, rfl⟩ | ⟨hx, u, hm, ha⟩ | ha
  · exact .inr (.mismatch (last hf))
  · exact .inl ⟨_, _, by simp, rfl, rfl⟩
  · refine .inr (.mirrorFrame ?_ hx hm ha)
    obtain ⟨_, _, _, _, _, rfl⟩ := hm
    obtain ⟨_, rfl, -⟩ := ha
    exact last hf
  · refine .inr (.dispatch ?_ ha)
    obtain ⟨_, rfl, -⟩ := ha
    exact last hf

/-- What RX_CHAR can do. -/
theorem execRx_transition (hf : s.fault = false) (h : execRx d s = .next t) :
    Faults s t ∨ Transition s (.rx d) t := by
  cases hr : s.run with
  | stopped =>
    rw [execRx_stopped d hr] at h
    cases h
    exact .inr (.refl ..)
  | running =>
    rcases execRx_cases hf hr h with ⟨-, -, rfl⟩ | ⟨hs, rfl, rfl⟩ | ⟨hs, hd, rfl⟩ | ⟨hs, hd, rfl⟩ |
      ⟨hs, hb, lge, hl, ⟨hc, rfl⟩ | ⟨hc, hfr⟩⟩
    · exact .inr (.refl ..)
    · exact .inr (.storeStx hr hs)
    · exact .inr (.acceptLge hr hs hd.1 hd.2)
    · exact .inr (.rejectLge hs hd)
    · exact .inr (.storeBody hs hb hl hc)
    · exact completeFrame_transition hf hr hs hb hl hc hfr

/-- What START can do. -/
theorem execStart_transition {nd : Node} {en : Enables} (hf : s.fault = false) (h : execStart nd en s = .next t) :
    Faults s t ∨ Transition s (.start nd en) t := by
  rw [execStart_live nd en hf, latchConfig_eq] at h
  have hparams : (if s.run = .running then stopActions s else s).params = s.params := by split <;> rfl
  have hstage : (if s.run = .running then stopActions s else s).baudStage = s.baudStage := by split <;> rfl
  rw [hparams, hstage] at h
  split at h
  · cases h
    exact .inl ⟨_, _, by simp, hparams, rfl⟩
  · rename_i hv
    cases h
    rw [not_or, Bool.not_eq_true] at hv
    exact .inr (.start hv.1 hv.2)

/-- Every instruction that answers a next state raises a fault or makes a transition of the list. -/
theorem exec_cases (hf : s.fault = false) (h : exec i s = .next t) : Faults s t ∨ Transition s i t := by
  cases i with
  | rx d => exact execRx_transition hf h
  | err k =>
    rw [exec, execErr_live k hf] at h
    cases h
    split
    · exact .inr (.refl ..)
    · split
      · exact .inr (.idleError ‹_›)
      · exact .inr (.lineError ‹_›)
  | tick =>
    rw [exec, execTick_live hf] at h
    exact .inr (.tick h)
  | txdone =>
    rw [exec, execTxdone_live hf] at h
    cases h
    split
    · exact .inr (.txdone ‹_›)
    · exact .inr (.refl ..)
  | baud b =>
    rw [exec, execBaud_live b hf] at h
    cases h
    exact .inr .baud
  | start nd en => exact execStart_transition hf h
  | stop =>
    rw [exec, execStop_live hf] at h
    cases h
    exact .inr .stop
  | illegal w =>
    rw [exec, execIllegal_live w hf] at h
    cases h
    exact .inl ⟨_, _, by simp, rfl, rfl⟩
  | adrSpecial low =>
    rw [exec, execAdrSpecial, unlessFaulted_live hf] at h
    exact .inr (.telegrams (emitIfEnabled_adds h))
  | adrMirror b5 node =>
    rw [exec, execAdrMirror, unlessFaulted_live hf] at h
    rcases mirrorFrame_cases h with ⟨-, rfl⟩ | ⟨hx, hm⟩
    · exact .inl ⟨_, _, by simp, rfl, rfl⟩
    · exact .inr (.adrMirror hx hm)
  | adrBroadcast b6 node =>
    rw [exec, execAdrBroadcast, unlessFaulted_live hf] at h
    exact .inr (.telegrams (emitIfEnabled_adds h))
  | adrStandard node =>
    rw [exec, execAdrStandard, unlessFaulted_live hf] at h
    exact .inr (.telegrams (emitIfEnabled_adds h))
  | adrUnaddressed b6 node =>
    rw [exec, execAdrUnaddressed, unlessFaulted_live hf] at h
    cases h
    exact .inr (.refl ..)

/-- Where no fault stands after an instruction, it has made a transition of the list, and none stood before. -/
theorem transition_of_exec (h : exec i s = .next t) (ht : t.fault = false) : s.fault = false ∧ Transition s i t := by
  cases hf : s.fault with
  | true =>
    rw [exec_faulted i hf] at h
    cases h
    simp [hf] at ht
  | false =>
    refine ⟨rfl, (exec_cases hf h).resolve_left fun hx => ?_⟩
    simp [hx.fault] at ht

end Sys2Proof.Machine
end

section
/-! Every transition of an event keeps the invariant (10_state.md R38, R39, 42_timers_transmit.md R94). -/

namespace Sys2Proof.Machine

open Sys2Proof.Safety

variable {i : Instr} {s t u : State} {d : Byte}

/-! Loads that fit (R92, R94, R105). -/

theorem residLoadAt_mono (P : Params) {B : Baud} (hB : B ≠ 0) {l l' : Nat} (h : l ≤ l') :
    residLoadAt P B l ≤ residLoadAt P B l' := by
  have hl : 33 * l * P.tickHz ≤ 33 * l' * P.tickHz := by gcongr
  rw [residLoadAt_eq P hB, residLoadAt_eq P hB]
  exact Nat.succ_le_succ (Nat.div_le_div_right (by omega))

theorem respLoadAt_le_residLoadAt_two (P : Params) {B : Baud} (hB : B ≠ 0) :
    respLoadAt P B ≤ residLoadAt P B 2 := by
  have hd : (22 * P.tickHz + B.toNat - 1) / B.toNat = 2 * (22 * P.tickHz + B.toNat - 1) / (2 * B.toNat) :=
    (Nat.mul_div_mul_left _ _ (by decide)).symm
  rw [respLoadAt_eq P hB, residLoadAt_eq P hB, hd]
  exact Nat.succ_le_succ (Nat.div_le_div_right (by omega))

/-- The part of `Live` that is about the configuration and the transmitter. -/
structure TxLive (s : State) : Prop where
  loads : s.run = .running →
    s.cfgBaud ≠ 0 ∧ residLoadAt s.params s.cfgBaud s.params.maxLge ≤ 2 ^ s.params.cntW - 1
  waiting : s.txState = .responseWait → s.run = .running ∧ 1 ≤ s.respCnt
  reply : s.txState ≠ .idle → s.txLen.toNat = txLgeOf s + 2 ∧ Written s.txb 0 s.txLen.toNat

theorem TxLive.of_live (h : Live s) : TxLive s := { h with }

/-- While running, the residual load of every legal LGE fits its counter. -/
theorem TxLive.residLoad_lt (h : TxLive s) (hr : s.run = .running) {lge : Nat} (hl : lge ≤ s.params.maxLge) :
    residLoad s lge < 2 ^ s.params.cntW := by
  obtain ⟨hB, hfit⟩ := h.loads hr
  have hle : residLoad s lge ≤ residLoadAt s.params s.cfgBaud s.params.maxLge := residLoadAt_mono _ hB hl
  have := Nat.two_pow_pos s.params.cntW
  omega

/-- While running, the response load fits its counter. -/
theorem TxLive.respLoad_lt (h : TxLive s) (hp : s.params.Wf) (hr : s.run = .running) :
    respLoad s < 2 ^ s.params.cntW :=
  (respLoadAt_le_residLoadAt_two s.params (h.loads hr).1).trans_lt (h.residLoad_lt hr hp.1)

/-! What the invariant does not see. -/

/-- The invariant is not about the model's own fields and the records. -/
theorem invariant_environment (h : Invariant s) (port : List PortInput) (out trace : List OutRec) (n : Nat) :
    Invariant { s with port := port, out := out, trace := trace, freeCtr := n } :=
  ⟨{ h.sound with }, fun hf => { h.live hf with }⟩

theorem invariant_beginStep (h : Invariant s) (rest : List PortInput) : Invariant (beginStep rest s) :=
  invariant_environment h rest [] (s.trace ++ s.out) s.freeCtr

theorem invariant_addsTelegrams (h : Invariant s) (ha : AddsTelegrams s t) : Invariant t := by
  obtain ⟨new, rfl, -⟩ := ha
  exact invariant_environment h s.port _ s.trace s.freeCtr

/-! Reset and faults. -/

theorem invariant_resetOf {P : Params} (hP : P.Wf) : Invariant (State.resetOf P) where
  sound :=
    { params := hP
      rxb := rfl
      txb := rfl
      residCnt := Nat.two_pow_pos _
      respCnt := Nat.two_pow_pos _
      cause := by simp }
  live _ := by constructor <;> simp

theorem config_params_wf : Config.params.Wf := by
  have := Config.maxLgeAboveMin.isLt
  simp only [Params.Wf, Config.params]
  omega

theorem invariant_assertReset (hP : s.params.Wf) (rest : List PortInput) : Invariant (assertReset rest s) :=
  invariant_environment (invariant_resetOf hP) rest [] (s.trace ++ s.out) s.freeCtr

theorem Faults.invariant (h : Faults s t) (hP : s.params.Wf) : Invariant t := by
  obtain ⟨c, u, hc, hu, rfl⟩ := h
  exact
    { sound :=
        { params := by simpa [hu] using hP
          rxb := rfl
          txb := rfl
          residCnt := toCnt_lt _ _
          respCnt := toCnt_lt _ _
          cause := by simp [hc] }
      live := by simp }

/-! The receiver. -/

theorem lgeOf_of_read {l : Byte} (h : Memory.read s.rxb 1 = some l) : lgeOf s = l.toNat := by simp [lgeOf, h]

theorem txLgeOf_of_read {l : Byte} (h : Memory.read s.txb 1 = some l) : txLgeOf s = l.toNat := by simp [txLgeOf, h]

theorem lgeOf_captured (d : Byte) (s : State) : lgeOf (captured d s) = lgeOf s := by
  simp only [lgeOf, captured_read_one]

/-- A legal LGE leaves the body count below 255, so that it does not wrap. -/
theorem toNat_bodyCount_succ (h : Live s) (hP : s.params.Wf) (hs : s.rxState = .awaitBody) :
    (s.bodyCount + 1).toNat = s.bodyCount.toNat + 1 := by
  obtain ⟨-, hmax, hlt⟩ := h.body hs
  obtain ⟨-, h255, -⟩ := hP
  rw [BitVec.toNat_add, show (1 : BitVec 8).toNat = 1 from rfl, Nat.mod_eq_of_lt (by omega)]

/-- The receiver at rest (R69) meets whatever the invariant asks of it. -/
theorem invariant_returnToStart (hs : Sound s) (ht : TxLive s) : Invariant (returnToStart s) where
  sound := { hs with residCnt := Nat.two_pow_pos _ }
  live _ := { ht with
    armed := by simp
    residRuns := by simp
    residRests := by simp
    started := by simp
    body := by simp
    captured := by simp
    noBody := by simp }

theorem invariant_abort (hs : Sound s) (ht : TxLive s) (r : LastResult) :
    Invariant (returnToStart (setLastResult r s)) :=
  invariant_returnToStart { hs with } { ht with }

theorem sound_captured (hs : Sound s) (hb : 2 + s.bodyCount.toNat < s.params.bufBytes) : Sound (captured d s) :=
  { hs with rxb := Memory.wf_write hs.rxb hb d }

theorem invariant_storeStx (hi : Invariant s) (hf : s.fault = false) (hr : s.run = .running)
    (hs : s.rxState = .awaitStart) :
    Invariant { s with rxb := Memory.write s.rxb 0 Config.stxValue, rxState := .awaitLength } where
  sound := { hi.sound with rxb := Memory.wf_write hi.sound.rxb (by simp) _ }
  live _ :=
    let h := hi.live hf
    { h with
      armed := by simpa [hs] using h.armed
      started := fun _ => ⟨hr, Memory.read_write_same ..⟩
      body := by simp
      captured := by simp
      noBody := fun _ => h.noBody (by simp [hs]) }

theorem invariant_acceptLge (hi : Invariant s) (hf : s.fault = false) (hr : s.run = .running)
    (hs : s.rxState = .awaitLength) (hmin : Config.minLge ≤ d.toNat) (hmax : d.toNat ≤ s.params.maxLge) :
    Invariant (accepted d s) := by
  have h := hi.live hf
  have hstx : Memory.read (Memory.write s.rxb 1 d) 0 = some Config.stxValue := by
    rw [Memory.read_write_ne _ _ (by decide)]
    exact (h.started (by simp [hs])).2
  have hlge : Memory.read (Memory.write s.rxb 1 d) 1 = some d := Memory.read_write_same ..
  have hbody : Memory.readRange (Memory.write s.rxb 1 d) 0 2 = some [Config.stxValue, d] := by
    simp [Memory.readRange, hstx, hlge]
  have hload : 1 ≤ toCnt s.params (residLoad s d.toNat) := by
    rw [toCnt_of_lt ((TxLive.of_live h).residLoad_lt hr hmax)]
    exact residLoadAt_pos ..
  exact
    { sound := { hi.sound with
        rxb := Memory.wf_write hi.sound.rxb (by simp) _
        residCnt := toCnt_lt _ _ }
      live := fun _ => { h with
        armed := by simp [accepted]
        residRuns := fun _ => hload
        residRests := by simp [accepted]
        started := fun _ => ⟨hr, hstx⟩
        body := fun _ =>
          have hl : lgeOf (accepted d s) = d.toNat := lgeOf_of_read hlge
          ⟨hl.symm ▸ hmin, hl.symm ▸ hmax, hl.symm ▸ (by decide : 0 < Config.minLge).trans_le hmin⟩
        captured := fun _ => Option.isSome_iff_exists.mpr ⟨_, hbody⟩
        noBody := by simp [accepted] } }

theorem invariant_captured (hi : Invariant s) (hf : s.fault = false) (hs : s.rxState = .awaitBody)
    (hb : 2 + s.bodyCount.toNat < s.params.bufBytes) {lge : Byte} (hl : Memory.read s.rxb 1 = some lge)
    (hc : s.bodyCount + 1 ≠ lge) : Invariant (captured d s) := by
  have h := hi.live hf
  have hcount := toNat_bodyCount_succ h hi.sound.params hs
  obtain ⟨hmin, hmax, hlt⟩ := h.body hs
  obtain ⟨bs, hbs⟩ := Option.isSome_iff_exists.mp (h.captured hs)
  refine ⟨sound_captured hi.sound hb, fun _ => { h with started := ?_, body := ?_, captured := ?_, noBody := ?_ }⟩
  · intro hs'
    obtain ⟨hr, hstx⟩ := h.started hs'
    exact ⟨hr, (Memory.read_write_ne _ _ (by omega)).trans hstx⟩
  · intro _
    have hne : s.bodyCount.toNat + 1 ≠ lge.toNat := fun he => hc (BitVec.eq_of_toNat_eq (hcount.trans he))
    rw [lgeOf_captured]
    refine ⟨hmin, hmax, ?_⟩
    rw [lgeOf_of_read hl] at hlt ⊢
    show (s.bodyCount + 1).toNat < _
    omega
  · intro _
    show Written (Memory.write s.rxb (2 + s.bodyCount.toNat) d) 0 (2 + (s.bodyCount + 1).toNat)
    rw [hcount, ← Nat.add_assoc, Written, Memory.readRange_snoc (bs := bs) (b := d)]
    · rfl
    · rw [Memory.readRange_write_outside _ _ (by omega), hbs]
    · rw [Nat.zero_add, Memory.read_write_same]
  · intro hs'
    exact absurd hs hs'

/-! The mirror action (R85, R98). -/

theorem sound_mirrored (hs : Sound s) (hm : Mirrored s u) : Sound u := by
  obtain ⟨lge, frame, -, hb, hr, rfl⟩ := hm
  have hlen := Memory.readRange_length hr
  exact { hs with
    txb := Memory.wf_writeRange frame hs.txb (by rw [hlen, Nat.zero_add]; exact hb)
    respCnt := toCnt_lt _ _ }

theorem txLive_mirrored (hs : Sound s) (h : TxLive s) (hrun : s.run = .running) (hm : Mirrored s u) : TxLive u := by
  have hload : 1 ≤ toCnt s.params (respLoad s) := by
    rw [toCnt_of_lt (h.respLoad_lt hs.params hrun)]
    exact respLoadAt_pos ..
  obtain ⟨lge, frame, hl, -, hr, rfl⟩ := hm
  have hlen := Memory.readRange_length hr
  have hreply : Memory.readRange (Memory.writeRange s.txb 0 frame) 0 (lge.toNat + 2) = some frame :=
    hlen ▸ Memory.readRange_writeRange_same frame s.txb 0
  have hlge : Memory.read (Memory.writeRange s.txb 0 frame) 1 = some lge := by
    have hrx := Memory.read_of_readRange hr (i := 1) (by omega)
    have htx := Memory.read_of_readRange hreply (i := 1) (by omega)
    rw [Nat.zero_add] at hrx htx
    rw [htx, ← hrx, hl]
  have htl : (BitVec.ofNat 9 (lge.toNat + 2)).toNat = lge.toNat + 2 := by
    have := lge.isLt
    rw [BitVec.toNat_ofNat, Nat.mod_eq_of_lt (by omega)]
  exact { h with
    waiting := fun _ => ⟨hrun, hload⟩
    reply := fun _ => by
      rw [txLgeOf_of_read hlge, htl]
      exact ⟨rfl, by rw [Written, hreply]; rfl⟩ }

theorem invariant_mirrored (hs : Sound s) (h : TxLive s) (hrun : s.run = .running) (hm : Mirrored s u)
    (r : LastResult) : Invariant (returnToStart (setLastResult r u)) :=
  invariant_abort (sound_mirrored hs hm) (txLive_mirrored hs h hrun hm) r

/-! The timers. -/

theorem invariant_tickResid (hi : Invariant s) (hf : s.fault = false) : Invariant (tickResid s) := by
  have h := hi.live hf
  rcases tickResid_cases s with ⟨-, e⟩ | ⟨ha, h0, e⟩ | ⟨-, -, e⟩ <;> rw [e]
  · exact hi
  · exact
      { sound := { hi.sound with residCnt := decCnt_lt _ _ }
        live := fun _ => { h with
          residRuns := fun _ => Nat.pos_of_ne_zero h0
          residRests := fun hn => by simp [ha] at hn } }
  · exact invariant_abort hi.sound (.of_live h) _

theorem invariant_tickResp (hi : Invariant s) (hf : s.fault = false) (ht : tickResp s = .next t) : Invariant t := by
  have h := hi.live hf
  rcases tickResp_cases ht with ⟨-, rfl⟩ | ⟨hw, h0, rfl⟩ | ⟨hw, bytes, -, rfl⟩
  · exact hi
  · exact
      { sound := { hi.sound with respCnt := decCnt_lt _ _ }
        live := fun _ => { h with waiting := fun _ => ⟨(h.waiting hw).1, Nat.pos_of_ne_zero h0⟩ } }
  · exact
      { sound := { hi.sound with respCnt := decCnt_lt _ _ }
        live := fun _ => { h with
          waiting := by simp
          reply := fun _ => h.reply (by simp [hw]) } }

/-! The control events. -/

theorem invariant_stopActions (hi : Invariant s) (hf : s.fault = false) : Invariant (stopActions s) where
  sound :=
    { hi.sound with
      residCnt := Nat.two_pow_pos _
      respCnt := by
        have := hi.sound.respCnt
        have := Nat.two_pow_pos s.params.cntW
        simp only [stopActions_respCnt, stopActions_params]
        split <;> assumption }
  live _ :=
    { armed := by simp
      residRuns := by simp
      residRests := by simp
      started := by simp
      body := by simp
      captured := by simp
      noBody := by simp
      loads := by simp
      waiting := by
        intro hw
        by_cases h : s.txState = .responseWait <;> simp [h] at hw
      reply := by
        intro hx
        refine (hi.live hf).reply fun h => hx ?_
        simp [h] }

/-- START latches a configuration whose loads fit, in a stopped block (R105). -/
theorem invariant_latched (nd : Node) (en : Enables) (hi : Invariant s) (hf : s.fault = false) (hr : s.run = .stopped)
    (hB : s.baudStage ≠ 0) (hfit : loadTooLarge s.params s.baudStage = false) : Invariant (latched nd en s) where
  sound := { hi.sound with }
  live _ :=
    let h := hi.live hf
    { h with
      started := fun hs => by simp [(h.started hs).1] at hr
      loads := fun _ => ⟨hB, not_lt.mp (of_decide_eq_false hfit)⟩
      waiting := fun hw => by simp [(h.waiting hw).1] at hr }

/-! The step. -/

/-- The transition of an instruction that has an event word keeps the invariant. -/
theorem Transition.invariant (hi : Invariant s) (hf : s.fault = false) (he : (encodeEvent i).isSome = true)
    (h : Transition s i t) : Invariant t := by
  have hs := hi.sound
  have htx := TxLive.of_live (hi.live hf)
  cases h with
  | telegrams ha => exact invariant_addsTelegrams hi ha
  | storeStx hr hst => exact invariant_storeStx hi hf hr hst
  | acceptLge hr hst hmin hmax => exact invariant_acceptLge hi hf hr hst hmin hmax
  | rejectLge _ _ => exact invariant_abort hs htx _
  | storeBody hst hb hl hc => exact invariant_captured hi hf hst hb hl hc
  | mismatch hd => exact invariant_abort (sound_captured hs hd.inBuffer) { htx with } _
  | dispatch hd ha => exact invariant_addsTelegrams (invariant_abort (sound_captured hs hd.inBuffer) { htx with } _) ha
  | mirrorFrame hd _ hm ha =>
    exact invariant_addsTelegrams (invariant_mirrored (sound_captured hs hd.inBuffer) { htx with } hd.running hm _) ha
  | idleError _ => exact invariant_returnToStart hs htx
  | lineError _ => exact invariant_abort hs htx _
  | tick ht =>
    obtain ⟨_, _, _, _, _, e⟩ := tickResid_frame s
    exact invariant_tickResp (invariant_tickResid hi hf) (by rw [e]; exact hf) ht
  | txdone _ =>
    exact ⟨{ hs with }, fun _ => { hi.live hf with waiting := by simp, reply := by simp }⟩
  | baud => exact ⟨{ hs with }, fun _ => { hi.live hf with }⟩
  | start hB hfit =>
    split
    · exact invariant_latched _ _ (invariant_stopActions hi hf) hf rfl hB hfit
    · rename_i hr
      exact invariant_latched _ _ hi hf (by cases h : s.run <;> simp_all) hB hfit
  | stop => exact invariant_stopActions hi hf
  | adrMirror _ _ => simp [encodeEvent, encode] at he

/-- Every word decodes to an instruction of the event map: no ADR instruction (R61, R63). -/
theorem encodeEvent_decodeEvent_isSome (w : EventWord) : (encodeEvent (decodeEvent w)).isSome = true := by
  have hz (z : Bool) {i : Instr} (hi : (encodeEvent i).isSome = true) :
      (encodeEvent (whenZero z w i)).isSome = true := by
    cases z
    · rfl
    · exact hi
  unfold decodeEvent
  split
  · exact hz _ rfl
  · split
    · exact hz _ rfl
    · rfl
  · exact hz _ rfl
  · exact hz _ rfl
  · exact hz _ rfl
  · exact hz _ rfl
  · exact hz _ rfl
  · rfl

theorem exec_invariant (hi : Invariant s) (he : (encodeEvent i).isSome = true) (h : exec i s = .next t) :
    Invariant t := by
  cases hf : s.fault with
  | true =>
    rw [exec_faulted i hf] at h
    cases h
    exact hi
  | false =>
    rcases exec_cases hf h with hx | hx
    · exact hx.invariant hi.sound.params
    · exact hx.invariant hi hf he

theorem step_invariant (hi : Invariant s) (h : step s = .next t) : Invariant t := by
  cases hp : s.port with
  | nil =>
    rw [step_of_port_empty hp] at h
    cases h
    exact hi
  | cons input rest =>
    cases input with
    | word w =>
      rw [step_of_port_word hp] at h
      exact exec_invariant (invariant_beginStep hi rest) (encodeEvent_decodeEvent_isSome w) h
    | rst =>
      rw [step_of_port_rst hp] at h
      cases h
      exact invariant_assertReset hi.sound.params rest

end Sys2Proof.Machine

namespace Sys2Proof.Proofs

open Sys2Proof.Machine Sys2Proof.Safety

/-- Settles O43: the parameters of `State.reset` are in the ranges of R8. -/
theorem resetStateMeetsTheInvariant : Obligations.ResetStateMeetsTheInvariant :=
  ⟨invariant_resetOf config_params_wf, fun _ hP => invariant_resetOf hP⟩

/-- Settles O44, by the three inputs of a step and the transitions of an event. -/
theorem everyStepKeepsTheInvariant : Obligations.EveryStepKeepsTheInvariant :=
  fun _ _ hi h => step_invariant hi h

end Sys2Proof.Proofs
end

section
/-! Under the invariant no step stops: every buffer byte that a rule reads has been written (10_state.md R40, 20_memory.md
R42). -/

namespace Sys2Proof.Machine

open Sys2Proof.Safety Sys2Proof.Statements

variable {i : Instr} {s t : State} {d : Byte} {lge : Nat} {frame : List Byte}

theorem Memory.lt_of_read {size : Nat} {m : Memory} (h : Memory.wf size m = true) {a : Nat} {b : Byte}
    (hb : Memory.read m a = some b) : a < size := by
  obtain ⟨-, hall⟩ := Bool.and_eq_true_iff.mp h
  clear h
  induction m with
  | nil => cases hb
  | cons c m ih =>
    rw [List.all_cons, Bool.and_eq_true, decide_eq_true_eq] at hall
    rw [Memory.read] at hb
    split at hb
    · rename_i hc
      exact hc ▸ hall.1
    · exact ih hb hall.2

/-- A range that has been written lies inside the buffer. -/
theorem Memory.written_inside {size : Nat} {m : Memory} (h : Memory.wf size m = true) {a n : Nat} {bs : List Byte}
    (hr : Memory.readRange m a n = some bs) : n = 0 ∨ a + n ≤ size := by
  rcases Nat.eq_zero_or_pos n with h0 | h0
  · exact .inl h0
  · have hlen := Memory.readRange_length hr
    have hlast := Memory.read_of_readRange hr (i := n - 1) (by omega)
    rw [List.getElem?_eq_getElem (by omega)] at hlast
    have := Memory.lt_of_read h hlast
    omega

/-! The dispatcher on a frame in RXB. -/

theorem frameInRxb_of_rxb_eq (h : FrameInRxb s lge frame) (hp : t.params = s.params) (hx : t.rxb = s.rxb) :
    FrameInRxb t lge frame := by
  rwa [FrameInRxb, hp, hx]

theorem emitIfEnabled_next (h : FrameInRxb s lge frame) (slot : Nat) (port : OutPort) :
    ∃ t, emitIfEnabled slot port s = .next t := by
  obtain ⟨hmin, hbuf, hr, hl⟩ := h
  exact ⟨_, emitIfEnabled_of_frame hmin hbuf hr hl slot port⟩

theorem actAny_next (h : FrameInRxb s lge frame) (hp : t.params = s.params) (hx : t.rxb = s.rxb) :
    ∃ u, actAny t = .next u :=
  emitIfEnabled_next (frameInRxb_of_rxb_eq h hp hx) 3 .any

theorem mirrorFrame_next (h : FrameInRxb s lge frame) : ∃ t, mirrorFrame s = .next t := by
  obtain ⟨-, hbuf, hr, hl⟩ := h
  by_cases hx : s.txState = .idle
  · exact ⟨_, mirrorFrame_of_frame hx hbuf hr hl⟩
  · exact ⟨_, mirrorFrame_next_iff.mpr (.inl ⟨hx, rfl⟩)⟩

theorem runClass_next (h : FrameInRxb s lge frame) (hf : s.fault = false) (adr : Byte) :
    ∃ t, runClass adr s = .next t := by
  cases hc : classify adr s.cfgNode with
  | special =>
    rw [runClass_special hc, execAdrSpecial, unlessFaulted_live hf]
    exact emitIfEnabled_next h 2 .spec
  | mirror =>
    rw [runClass_mirror hc, execAdrMirror, unlessFaulted_live hf]
    exact mirrorFrame_next h
  | broadcast =>
    rw [runClass_broadcast hc, execAdrBroadcast, unlessFaulted_live hf]
    exact emitIfEnabled_next h 1 .bcast
  | standard =>
    rw [runClass_standard hc, execAdrStandard, unlessFaulted_live hf]
    exact emitIfEnabled_next h 0 .std
  | unaddressed =>
    rw [runClass_unaddressed hc, execAdrUnaddressed, unlessFaulted_live hf]
    exact ⟨_, rfl⟩

theorem dispatchFrame_next (h : FrameInRxb s lge frame) (hf : s.fault = false) :
    ∃ t, dispatchFrame s = .next t := by
  obtain ⟨hmin, hbuf, hr, -⟩ := id h
  obtain ⟨u, hu⟩ := runClass_next h hf (frame.getD 2 0)
  rw [dispatchFrame, rxbByte_of_frame hbuf hr (by omega), withOk_ok, hu]
  rcases runClass_cases hf hu with ⟨-, -, rfl⟩ | ⟨-, -, _, _, -, -, -, rfl⟩ | ⟨-, _, rfl, -⟩
  · exact ⟨_, seqThen_faulted rfl _⟩
  · rw [seqThen_live (by exact hf)]
    exact actAny_next h rfl rfl
  · rw [seqThen_live (by exact hf)]
    exact actAny_next h rfl rfl

theorem completeFrame_next (h : FrameInRxb s lge frame) (hf : s.fault = false) :
    ∃ t, completeFrame s = .next t := by
  obtain ⟨hmin, hbuf, hr, hl⟩ := id h
  obtain ⟨ok, hok, -⟩ := bccMatches_of_frame (s := { s with residArmed := false, residCnt := 0 }) hbuf hr
  rw [completeFrame, rxbByte_of_frame hbuf hr (by omega), withOk_ok, hl, hok, withOk_ok]
  cases ok with
  | false => exact ⟨_, rfl⟩
  | true =>
    obtain ⟨u, hu⟩ := dispatchFrame_next
      (s := setLastResult .ok { s with residArmed := false, residCnt := 0 }) (frameInRxb_of_rxb_eq h rfl rfl) hf
    rw [if_pos rfl, hu]
    cases hfu : u.fault with
    | true => exact ⟨_, seqThen_faulted hfu _⟩
    | false => exact ⟨_, seqThen_live hfu _⟩

/-! RX_CHAR. -/

/-- In the body of a frame the invariant gives the LGE byte and the frame that `d` completes at the last byte (R75). -/
theorem completedFrame_of_last (hi : Invariant s) (hf : s.fault = false) (hs : s.rxState = .awaitBody) {l : Byte}
    (hl : Memory.read s.rxb 1 = some l) (hc : s.bodyCount + 1 = l) : ∃ frame, completedFrame d s = some frame := by
  have h := hi.live hf
  have hcount : s.bodyCount.toNat + 1 = lgeOf s := by
    rw [lgeOf_of_read hl, ← hc, toNat_bodyCount_succ h hi.sound.params hs]
  obtain ⟨bs, hbs⟩ := Option.isSome_iff_exists.mp (h.captured hs)
  refine ⟨bs ++ [d], ?_⟩
  rw [completedFrame, if_pos ⟨(h.started (by simp [hs])).1, hs, hcount⟩,
    show lgeOf s + 1 = 2 + s.bodyCount.toNat by omega, hbs]
  rfl

theorem frameInRxb_of_completedFrame (hi : Invariant s) (hf : s.fault = false)
    (h : completedFrame d s = some frame) : FrameInRxb (captured d s) (lgeOf s) frame := by
  obtain ⟨-, -, hmin, hbuf, -, ⟨l, -, hl, -, hg⟩, hr⟩ := completedFrame_spec hi hf h
  exact ⟨hmin, hbuf, hr, hg ▸ hl⟩

theorem rxAwaitBody_next (hi : Invariant s) (hf : s.fault = false) (hs : s.rxState = .awaitBody) (d : Byte) :
    ∃ t, rxAwaitBody d s = .next t := by
  obtain ⟨hmin, hmax, hlt⟩ := (hi.live hf).body hs
  obtain ⟨l, hl, hl'⟩ := lgeOf_read (s := s) (by omega)
  have hbyte : rxbByte s 1 = .ok l := rxbByte_ok_iff.mpr ⟨by simp, hl⟩
  have hcap : captureByte d s = .ok (captured d s) :=
    captureByte_ok_iff.mpr ⟨by simp only [Params.bufBytes]; omega, rfl⟩
  rw [rxAwaitBody, hbyte, withOk_ok, hcap, withOk_ok]
  split
  · rename_i hc
    obtain ⟨frame, hfr⟩ := completedFrame_of_last (d := d) hi hf hs hl hc
    exact completeFrame_next (frameInRxb_of_completedFrame hi hf hfr) hf
  · exact ⟨_, rfl⟩

theorem execRx_next (hi : Invariant s) (hf : s.fault = false) (d : Byte) : ∃ t, execRx d s = .next t := by
  have hwrite (j : Nat) (hj : j < s.params.bufBytes) : writeRxb s j d = .ok { s with rxb := Memory.write s.rxb j d } :=
    writeRxb_ok_iff.mpr ⟨hj, rfl⟩
  cases hr : s.run with
  | stopped => exact ⟨_, execRx_stopped d hr⟩
  | running =>
    rw [execRx, unlessFaulted_live hf, hr]
    cases hs : s.rxState with
    | awaitStart =>
      simp only [rxAwaitStart, hwrite 0 (by simp), withOk_ok]
      split <;> exact ⟨_, rfl⟩
    | awaitLength =>
      simp only [rxAwaitLength, acceptLength, hwrite 1 (by simp), withOk_ok]
      split <;> exact ⟨_, rfl⟩
    | awaitBody => exact rxAwaitBody_next hi hf hs d

/-! TICK. -/

theorem tickResp_next (hi : Invariant s) (hf : s.fault = false) : ∃ t, tickResp s = .next t := by
  unfold tickResp
  split
  · rename_i hw
    split
    · obtain ⟨-, hwr⟩ := (hi.live hf).reply (by simp [hw])
      obtain ⟨bytes, hb⟩ := Option.isSome_iff_exists.mp hwr
      have hin := Memory.written_inside hi.sound.txb hb
      exact ⟨_, txStart_next_iff.mpr ⟨bytes, txbRange_ok_iff.mpr ⟨hin, hb⟩, rfl⟩⟩
    · exact ⟨_, rfl⟩
  · exact ⟨_, rfl⟩

/-! The step. -/

theorem tickResid_fault (s : State) : (tickResid s).fault = s.fault := by
  obtain ⟨_, _, _, _, _, e⟩ := tickResid_frame s
  rw [e]

theorem exec_next (hi : Invariant s) (he : (encodeEvent i).isSome = true) : ∃ t, exec i s = .next t := by
  cases hf : s.fault with
  | true => exact ⟨_, exec_faulted i hf⟩
  | false =>
    cases i with
    | rx d => exact execRx_next hi hf d
    | err k => exact ⟨_, execErr_live k hf⟩
    | tick =>
      obtain ⟨t, ht⟩ := tickResp_next (invariant_tickResid hi hf) ((tickResid_fault s).trans hf)
      exact ⟨t, (execTick_live hf).trans ht⟩
    | txdone => exact ⟨_, execTxdone_live hf⟩
    | baud b => exact ⟨_, execBaud_live b hf⟩
    | start nd en => exact ⟨_, (execStart_live nd en hf).trans (latchConfig_eq ..)⟩
    | stop => exact ⟨_, execStop_live hf⟩
    | illegal w => exact ⟨_, execIllegal_live w hf⟩
    | _ => simp [encodeEvent, encode] at he

theorem step_next (hi : Invariant s) : ∃ t, step s = .next t := by
  cases hp : s.port with
  | nil => exact ⟨_, step_of_port_empty hp⟩
  | cons input rest =>
    cases input with
    | word w =>
      rw [step_of_port_word hp]
      exact exec_next (invariant_beginStep hi rest) (encodeEvent_decodeEvent_isSome w)
    | rst => exact ⟨_, step_of_port_rst hp⟩

end Sys2Proof.Machine

namespace Sys2Proof.Proofs

open Sys2Proof.Machine Sys2Proof.Safety

/-- Settles O45, event by event: the invariant says of every byte that a rule reads that it has been written. -/
theorem noStepStopsUnderTheInvariant : Obligations.NoStepStopsUnderTheInvariant := fun _ hi => step_next hi

end Sys2Proof.Proofs
end

section
/-! What the transitions write and leave: the control elements, the records, `last_result`; and the run from reset
(10_state.md R17, R25 to R28, R32, R38, R39). -/

namespace Sys2Proof.Machine

open Sys2Proof.Safety Sys2Proof.Statements

variable {i : Instr} {s t : State} {d : Byte}

/-! The control elements. -/

/-- The elements that no line event and no timer writes, and the model's own fields but `out`. -/
def State.control (s : State) : (RunState × Node × Enables × Baud × Baud) × (Bool × FaultCause) ×
    (Params × List PortInput × List OutRec × Nat) :=
  ((s.run, s.cfgNode, s.cfgEn, s.cfgBaud, s.baudStage), (s.fault, s.faultCause),
    (s.params, s.port, s.trace, s.freeCtr))

theorem AddsTelegrams.control (h : AddsTelegrams s t) : t.control = s.control := by
  obtain ⟨_, rfl, -⟩ := h
  rfl

theorem Mirrored.control (h : Mirrored s t) : t.control = s.control := by
  obtain ⟨_, _, -, -, -, rfl⟩ := h
  rfl

theorem tickResid_control (s : State) : (tickResid s).control = s.control := by
  obtain ⟨_, _, _, _, _, e⟩ := tickResid_frame s
  rw [e]
  rfl

theorem tickResp_control (h : tickResp s = .next t) : t.control = s.control := by
  rcases tickResp_cases h with ⟨-, rfl⟩ | ⟨-, -, rfl⟩ | ⟨-, _, -, rfl⟩ <;> rfl

/-- Only SET_BAUD, START and STOP write control elements. -/
theorem Transition.control_cases (h : Transition s i t) :
    t.control = s.control ∨ (∃ b, i = .baud b ∧ t = { s with baudStage := b }) ∨
    (∃ nd en, i = .start nd en ∧ t = latched nd en (if s.run = .running then stopActions s else s)) ∨
    (i = .stop ∧ t = stopActions s) := by
  cases h with
  | telegrams ha => exact .inl ha.control
  | storeStx => exact .inl rfl
  | acceptLge => exact .inl rfl
  | rejectLge => exact .inl rfl
  | storeBody => exact .inl rfl
  | mismatch => exact .inl rfl
  | dispatch _ ha => exact .inl ha.control
  | mirrorFrame _ _ hm ha => exact .inl (ha.control.trans hm.control)
  | idleError => exact .inl rfl
  | lineError => exact .inl rfl
  | tick ht => exact .inl ((tickResp_control ht).trans (tickResid_control s))
  | txdone => exact .inl rfl
  | baud => exact .inr (.inl ⟨_, rfl, rfl⟩)
  | start => exact .inr (.inr (.inl ⟨_, _, rfl, rfl⟩))
  | stop => exact .inr (.inr (.inr ⟨rfl, rfl⟩))
  | adrMirror _ hm => exact .inl hm.control

/-! The records. -/

/-- How records and `tx_state` go together (R39, R99, R100): a TICK that ends a response delay adds TX_START with the reply
and enters SENDING, and everything else adds telegrams only and enters SENDING from nowhere. -/
def TransmitRule (i : Instr) (s t : State) : Prop :=
  ∃ new, t.out = s.out ++ new ∧
    ((s.txState = .responseWait ∧ t.txState = .sending ∧ i = .tick ∧
        ∃ reply, Memory.readRange s.txb 0 s.txLen.toNat = some reply ∧ new = [.txStart reply]) ∨
     ((∀ o ∈ new, ¬IsTxStart o) ∧ (t.txState = .sending → s.txState = .sending))) ∧
    (s.txState = .sending → t.txState ≠ .sending → i = .txdone)

theorem not_isTxStart_of_telegrams {new : List OutRec} (hn : ∀ o ∈ new, ∃ port tel, o = .tel port tel) :
    ∀ o ∈ new, ¬IsTxStart o := by
  rintro o ho ⟨bytes, rfl⟩
  obtain ⟨port, tel, he⟩ := hn _ ho
  cases he

/-- Telegrams only, with `tx_state` left as it is. -/
theorem TransmitRule.of_telegrams {new : List OutRec} (ho : t.out = s.out ++ new)
    (hn : ∀ o ∈ new, ∃ port tel, o = .tel port tel) (hx : t.txState = s.txState) : TransmitRule i s t :=
  ⟨new, ho, .inr ⟨not_isTxStart_of_telegrams hn, fun h => hx ▸ h⟩, fun h h' => absurd (hx.trans h) h'⟩

theorem TransmitRule.of_silent (ho : t.out = s.out) (hx : t.txState = s.txState) : TransmitRule i s t :=
  .of_telegrams (new := []) (by simp [ho]) (by simp) hx

/-- Telegrams only, with a transmitter that is taken from IDLE to RESPONSE_WAIT. -/
theorem TransmitRule.of_scheduled {new : List OutRec} (ho : t.out = s.out ++ new)
    (hn : ∀ o ∈ new, ∃ port tel, o = .tel port tel) (hs : s.txState = .idle) (ht : t.txState = .responseWait) :
    TransmitRule i s t :=
  ⟨new, ho, .inr ⟨not_isTxStart_of_telegrams hn, fun h => by simp [ht] at h⟩, fun h => by simp [hs] at h⟩

theorem transmitRule_tick (h : tickResp (tickResid s) = .next t) : TransmitRule .tick s t := by
  obtain ⟨_, _, _, _, _, e⟩ := tickResid_frame s
  rw [e] at h
  rcases tickResp_cases h with ⟨-, rfl⟩ | ⟨-, -, rfl⟩ | ⟨hw, bytes, hb, rfl⟩
  · exact .of_silent rfl rfl
  · exact .of_silent rfl rfl
  · have hw' : s.txState = .responseWait := hw
    exact ⟨_, rfl, .inl ⟨hw', rfl, rfl, bytes, hb, rfl⟩, fun h => by simp [hw'] at h⟩

/-- The STOP actions cancel a waiting reply and leave a transmission (R106). -/
theorem stopActions_txState_sending_iff (s : State) : (stopActions s).txState = .sending ↔ s.txState = .sending := by
  by_cases h : s.txState = .responseWait <;> simp [h]

/-- No record, with SENDING neither entered nor left. -/
theorem TransmitRule.of_sending_iff (ho : t.out = s.out) (hx : t.txState = .sending ↔ s.txState = .sending) :
    TransmitRule i s t :=
  ⟨[], by simp [ho], .inr ⟨by simp, hx.mp⟩, fun h h' => absurd (hx.mpr h) h'⟩

theorem Transition.transmitRule (h : Transition s i t) : TransmitRule i s t := by
  cases h with
  | telegrams ha =>
    obtain ⟨new, rfl, hn⟩ := ha
    exact .of_telegrams rfl hn rfl
  | storeStx => exact .of_silent rfl rfl
  | acceptLge => exact .of_silent rfl rfl
  | rejectLge => exact .of_silent rfl rfl
  | storeBody => exact .of_silent rfl rfl
  | mismatch => exact .of_silent rfl rfl
  | dispatch _ ha =>
    obtain ⟨new, rfl, hn⟩ := ha
    exact .of_telegrams rfl hn rfl
  | mirrorFrame _ hx hm ha =>
    obtain ⟨_, _, -, -, -, rfl⟩ := hm
    obtain ⟨new, rfl, hn⟩ := ha
    exact .of_scheduled rfl hn hx rfl
  | idleError => exact .of_silent rfl rfl
  | lineError => exact .of_silent rfl rfl
  | tick ht => exact transmitRule_tick ht
  | txdone => exact ⟨[], by simp, .inr ⟨by simp, by simp⟩, fun _ _ => rfl⟩
  | baud => exact .of_silent rfl rfl
  | start =>
    split
    · exact .of_sending_iff rfl (stopActions_txState_sending_iff s)
    · exact .of_silent rfl rfl
  | stop => exact .of_sending_iff rfl (stopActions_txState_sending_iff s)
  | adrMirror hx hm =>
    obtain ⟨_, _, -, -, -, rfl⟩ := hm
    exact .of_scheduled (new := []) (by simp) (by simp) hx rfl

/-- The fault record and the model's own fields are written by no transition, and records are only added. -/
theorem Transition.environment (h : Transition s i t) :
    t.faultCause = s.faultCause ∧ t.params = s.params ∧ t.port = s.port ∧ t.trace = s.trace ∧ t.freeCtr = s.freeCtr ∧
      ∃ new, t.out = s.out ++ new := by
  obtain ⟨new, hout, -, -⟩ := h.transmitRule
  rcases h.control_cases with hc | ⟨b, -, rfl⟩ | ⟨nd, en, -, rfl⟩ | ⟨-, rfl⟩
  · simp only [State.control, Prod.mk.injEq] at hc
    obtain ⟨-, ⟨-, hcause⟩, hparams, hport, htrace, hctr⟩ := hc
    exact ⟨hcause, hparams, hport, htrace, hctr, new, hout⟩
  · exact ⟨rfl, rfl, rfl, rfl, rfl, new, hout⟩
  · refine ⟨?_, ?_, ?_, ?_, ?_, new, hout⟩ <;> split <;> rfl
  · exact ⟨rfl, rfl, rfl, rfl, rfl, new, hout⟩

/-! `last_result`. -/

/-- In a state that meets the invariant the last byte completes a frame, and its BCC check says whether it is valid (R75,
R80). -/
theorem LastByte.completed {ok : Bool} (h : LastByte d ok s) (hi : Invariant s) (hf : s.fault = false) :
    ∃ frame, completedFrame d s = some frame ∧ (ok = true ↔ validFrame frame) := by
  obtain ⟨lge, hl, hc, hm⟩ := h.checked
  obtain ⟨frame, hfr⟩ := completedFrame_of_last (d := d) hi hf h.inBody hl hc
  obtain ⟨-, hbuf, hr, -⟩ := frameInRxb_of_completedFrame hi hf hfr
  obtain ⟨ok', hm', hv⟩ := bccMatches_of_frame hbuf hr
  rw [lgeOf_of_read hl, hm, Except.ok.injEq] at hm'
  exact ⟨frame, hfr, hm' ▸ hv⟩

/-- A TICK writes `last_result` when the residual timer expires (R96). -/
theorem lastResult_tick (hi : Invariant s) (hf : s.fault = false) (h : tickResp (tickResid s) = .next t) :
    t.lastResult = s.lastResult ∨ residExpires s = true ∧ t.lastResult = .residTimeout := by
  have hresp : t.lastResult = (tickResid s).lastResult := by
    rcases tickResp_cases h with ⟨-, rfl⟩ | ⟨-, -, rfl⟩ | ⟨-, _, -, rfl⟩ <;> rfl
  rw [hresp]
  rcases tickResid_cases s with ⟨-, e⟩ | ⟨-, -, e⟩ | ⟨ha, h0, e⟩ <;> rw [e]
  · exact .inl rfl
  · exact .inl rfl
  · have hpos := (hi.live hf).residRuns ha
    rw [decCnt_of_pos hpos hi.sound.residCnt] at h0
    exact .inr ⟨by simp [residExpires, ha]; omega, rfl⟩

/-! Runs. -/

theorem exec_params (h : exec i s = .next t) : t.params = s.params := by
  cases hf : s.fault with
  | true =>
    rw [exec_faulted i hf] at h
    cases h
    rfl
  | false =>
    rcases exec_cases hf h with ⟨c, u, -, hu, rfl⟩ | hx
    · exact hu
    · exact hx.environment.2.1

theorem step_params (h : step s = .next t) : t.params = s.params := by
  cases hp : s.port with
  | nil =>
    rw [step_of_port_empty hp] at h
    cases h
    rfl
  | cons input rest =>
    cases input with
    | word w =>
      rw [step_of_port_word hp] at h
      exact (exec_params h).trans (beginStep_params rest s)
    | rst =>
      rw [step_of_port_rst hp] at h
      cases h
      rfl

theorem run_succ (n : Nat) (h : step s = .next t) : core.run (n + 1) s = core.run n t := by
  have hcore : core.step s = .next t := h
  simp only [Host.Core.run, hcore]

/-- A run from a state that meets the invariant never stops, and the invariant holds at its end. -/
theorem run_invariant (n : Nat) (hi : Invariant s) :
    ∃ t, core.run n s = .next t ∧ Invariant t ∧ t.params = s.params := by
  induction n generalizing s with
  | zero => exact ⟨s, rfl, hi, rfl⟩
  | succ n ih =>
    obtain ⟨u, hu⟩ := step_next hi
    obtain ⟨t, ht, hit, hpt⟩ := ih (step_invariant hi hu)
    refine ⟨t, ?_, hit, hpt.trans (step_params hu)⟩
    exact (run_succ n hu).trans ht

/-- The LGE byte of a frame in progress, with its bounds (R38). -/
theorem exists_lge (h : Live s) (hs : s.rxState = .awaitBody) : ∃ lge, Memory.read s.rxb 1 = some lge ∧
    2 ≤ lge.toNat ∧ lge.toNat ≤ s.params.maxLge ∧ s.bodyCount.toNat < lge.toNat := by
  obtain ⟨hmin, hmax, hlt⟩ := h.body hs
  obtain ⟨lge, hl, he⟩ := lgeOf_read (s := s) (by omega)
  exact ⟨lge, hl, he ▸ hmin, he ▸ hmax, he ▸ hlt⟩

end Sys2Proof.Machine

namespace Sys2Proof.Proofs

open Sys2Proof.Machine Sys2Proof.Safety

/-- Settles O35, transition by transition. -/
theorem transmissionsStartAndEndOnce : Obligations.TransmissionsStartAndEndOnce := fun _ _ _ _ _ h ht =>
  (transition_of_exec h ht).2.transmitRule

/-- Settles O46: the run from reset keeps the invariant, which holds the four facts of R38. -/
theorem reachedStatesMeetTheReceiveInvariants : Obligations.ReachedStatesMeetTheReceiveInvariants := by
  intro P inputs n hP
  obtain ⟨t, ht, hi, hp⟩ := run_invariant n (invariant_environment (invariant_resetOf hP) inputs [] [] 0)
  refine ⟨t, ht, fun hf => ?_⟩
  have h := hi.live hf
  have hmax : t.params.maxLge = P.maxLge := congrArg Params.maxLge hp
  exact ⟨h.armed, h.started, fun hs => hmax ▸ exists_lge h hs, h.noBody⟩

/-- Settles O47: no transition but those of SET_BAUD, START and STOP writes a control element. -/
theorem configurationIsWrittenByControlEventsOnly : Obligations.ConfigurationIsWrittenByControlEventsOnly := by
  intro i s t h ht
  obtain ⟨hf, htr⟩ := transition_of_exec h ht
  have henv := htr.environment
  rcases htr.control_cases with hc | ⟨b, rfl, rfl⟩ | ⟨nd, en, rfl, rfl⟩ | ⟨rfl, rfl⟩
  · simp only [State.control, Prod.mk.injEq] at hc
    obtain ⟨⟨hrun, hnode, hen, hbaud, hstage⟩, -, -⟩ := hc
    exact ⟨fun _ => ⟨hnode, hen, hbaud⟩, fun _ => hstage, fun _ _ => hrun, hf, henv⟩
  · exact ⟨fun _ => ⟨rfl, rfl, rfl⟩, fun hne => absurd rfl (hne b), fun _ _ => rfl, hf, henv⟩
  · have hstage : (latched nd en (if s.run = .running then stopActions s else s)).baudStage = s.baudStage := by
      split <;> rfl
    exact ⟨fun hne => absurd rfl (hne nd en), fun _ => hstage, fun _ hne => absurd rfl (hne nd en), hf, henv⟩
  · exact ⟨fun _ => ⟨rfl, rfl, rfl⟩, fun _ => rfl, fun hne => absurd rfl hne, hf, henv⟩

/-- Settles O50: the transitions that write `last_result` are those of the five events of R32. -/
theorem lastResultIsWrittenAtTheEndOfAFrameAttempt : Obligations.LastResultIsWrittenAtTheEndOfAFrameAttempt := by
  intro i s t hi hf h ht
  cases (transition_of_exec h ht).2 with
  | telegrams ha =>
    obtain ⟨_, rfl, -⟩ := ha
    exact .inl rfl
  | storeStx => exact .inl rfl
  | acceptLge => exact .inl rfl
  | @rejectLge d hs hd =>
    have hbad : d.toNat < 2 ∨ s.params.maxLge < d.toNat := by
      by_contra hn
      rw [not_or, not_lt, not_lt] at hn
      exact hd hn
    exact .inr (.inr (.inr (.inl ⟨d, rfl, hs, hbad, rfl⟩)))
  | storeBody => exact .inl rfl
  | @mismatch d hd =>
    obtain ⟨frame, hfr, hv⟩ := hd.completed hi hf
    exact .inr (.inr (.inl ⟨d, frame, rfl, hfr, .inr ⟨fun h => by simpa using hv.mpr h, rfl⟩⟩))
  | @dispatch d _ hd ha =>
    obtain ⟨frame, hfr, hv⟩ := hd.completed hi hf
    obtain ⟨_, rfl, -⟩ := ha
    exact .inr (.inr (.inl ⟨d, frame, rfl, hfr, .inl ⟨hv.mp rfl, rfl⟩⟩))
  | @mirrorFrame d _ _ hd _ _ ha =>
    obtain ⟨frame, hfr, hv⟩ := hd.completed hi hf
    obtain ⟨_, rfl, -⟩ := ha
    exact .inr (.inr (.inl ⟨d, frame, rfl, hfr, .inl ⟨hv.mp rfl, rfl⟩⟩))
  | idleError => exact .inl rfl
  | @lineError k hs => exact .inr (.inr (.inr (.inr (.inl ⟨k, rfl, hs, rfl⟩))))
  | tick hx =>
    rcases lastResult_tick hi hf hx with hk | ⟨he, hr⟩
    · exact .inl hk
    · exact .inr (.inr (.inr (.inr (.inr ⟨rfl, he, hr⟩))))
  | txdone => exact .inl rfl
  | baud => exact .inl rfl
  | @start nd en => exact .inr (.inl ⟨nd, en, rfl, rfl⟩)
  | stop => exact .inl rfl
  | adrMirror _ hm =>
    obtain ⟨_, _, -, -, -, rfl⟩ := hm
    exact .inl rfl

end Sys2Proof.Proofs
end

section
/-! What each instruction writes to the frame buffers: RX_CHAR one byte of RXB, the mirror action the frame to TXB, and
nothing else (20_memory.md R41, R42, R48, R51). -/

namespace Sys2Proof.Machine

open Sys2Proof.Safety Sys2Proof.Statements

variable {i : Instr} {s t u : State} {d : Byte}

/-! RXB. -/

theorem rxStoreIndex_stopped (d : Byte) (hr : s.run = .stopped) : rxStoreIndex d s = none := by
  simp [rxStoreIndex, hr]

theorem rxStoreIndex_awaitStart (d : Byte) (hf : s.fault = false) (hr : s.run = .running)
    (hs : s.rxState = .awaitStart) : rxStoreIndex d s = if d = Config.stxValue then some 0 else none := by
  simp [rxStoreIndex, hf, hr, hs]

theorem rxStoreIndex_awaitLength (d : Byte) (hf : s.fault = false) (hr : s.run = .running)
    (hs : s.rxState = .awaitLength) :
    rxStoreIndex d s = if Config.minLge ≤ d.toNat ∧ d.toNat ≤ s.params.maxLge then some 1 else none := by
  simp [rxStoreIndex, hf, hr, hs]

theorem rxStoreIndex_awaitBody (d : Byte) (hf : s.fault = false) (hr : s.run = .running)
    (hs : s.rxState = .awaitBody) : rxStoreIndex d s = some (2 + s.bodyCount.toNat) := by
  simp [rxStoreIndex, hf, hr, hs]

theorem AddsTelegrams.rxb (h : AddsTelegrams s t) : t.rxb = s.rxb := by
  obtain ⟨_, rfl, -⟩ := h
  rfl

theorem Mirrored.rxb (h : Mirrored s t) : t.rxb = s.rxb := by
  obtain ⟨_, _, -, -, -, rfl⟩ := h
  rfl

theorem completeFrame_rxb (hf : s.fault = false) (h : completeFrame s = .next t) (ht : t.fault = false) :
    t.rxb = s.rxb := by
  rcases completeFrame_cases hf h with rfl | ⟨-, rfl⟩ | ⟨-, u, hm, ha⟩ | ha
  · rfl
  · simp at ht
  · exact ha.rxb.trans hm.rxb
  · exact ha.rxb

/-- RXB after RX_CHAR `d`: the byte stands at the index of R72, R73 or R75, inside the buffer, or nothing was stored. -/
def ReceivesByte (d : Byte) (s t : State) : Prop :=
  (rxStoreIndex d s = none ∧ t.rxb = s.rxb) ∨
  ∃ j, rxStoreIndex d s = some j ∧ j < s.params.bufBytes ∧ t.rxb = Memory.write s.rxb j d

theorem execRx_receivesByte (hf : s.fault = false) (h : execRx d s = .next t) (ht : t.fault = false) :
    ReceivesByte d s t := by
  cases hr : s.run with
  | stopped =>
    rw [execRx_stopped d hr] at h
    cases h
    exact .inl ⟨rxStoreIndex_stopped d hr, rfl⟩
  | running =>
    rcases execRx_cases hf hr h with ⟨hs, hd, rfl⟩ | ⟨hs, hd, rfl⟩ | ⟨hs, hd, rfl⟩ | ⟨hs, hd, rfl⟩ |
      ⟨hs, hb, lge, -, hc⟩
    · exact .inl ⟨by rw [rxStoreIndex_awaitStart d hf hr hs, if_neg hd], rfl⟩
    · exact .inr ⟨0, by rw [rxStoreIndex_awaitStart d hf hr hs, if_pos hd], by simp, rfl⟩
    · exact .inr ⟨1, by rw [rxStoreIndex_awaitLength d hf hr hs, if_pos hd], by simp, rfl⟩
    · exact .inl ⟨by rw [rxStoreIndex_awaitLength d hf hr hs, if_neg hd], rfl⟩
    · refine .inr ⟨_, rxStoreIndex_awaitBody d hf hr hs, hb, ?_⟩
      rcases hc with ⟨-, rfl⟩ | ⟨-, hfr⟩
      · rfl
      · exact completeFrame_rxb (s := captured d s) hf hfr ht

theorem ReceivesByte.read_stored (h : ReceivesByte d s t) {j : Nat} (hj : rxStoreIndex d s = some j) :
    Memory.read t.rxb j = some d := by
  rcases h with ⟨hn, -⟩ | ⟨k, hk, -, e⟩
  · simp [hn] at hj
  · obtain rfl : k = j := Option.some.inj (hk.symm.trans hj)
    rw [e, Memory.read_write_same]

theorem ReceivesByte.read_other (h : ReceivesByte d s t) {a : Nat} (ha : rxStoreIndex d s ≠ some a) :
    Memory.read t.rxb a = Memory.read s.rxb a := by
  rcases h with ⟨-, e⟩ | ⟨k, hk, -, e⟩
  · rw [e]
  · rw [e, Memory.read_write_ne]
    rintro rfl
    exact ha hk

theorem tickResp_rxb (h : tickResp (tickResid s) = .next t) : t.rxb = s.rxb := by
  obtain ⟨_, _, _, _, _, e⟩ := tickResid_frame s
  rw [e] at h
  rcases tickResp_cases h with ⟨-, rfl⟩ | ⟨-, -, rfl⟩ | ⟨-, _, -, rfl⟩ <;> rfl

/-- Every instruction but RX_CHAR leaves RXB (R48a). -/
theorem Transition.rxb_of_not_rx (h : Transition s i t) (hi : ∀ d, i ≠ .rx d) : t.rxb = s.rxb := by
  cases h with
  | telegrams ha => exact ha.rxb
  | storeStx => exact absurd rfl (hi _)
  | acceptLge => exact absurd rfl (hi _)
  | rejectLge => exact absurd rfl (hi _)
  | storeBody => exact absurd rfl (hi _)
  | mismatch => exact absurd rfl (hi _)
  | dispatch => exact absurd rfl (hi _)
  | mirrorFrame => exact absurd rfl (hi _)
  | idleError => rfl
  | lineError => rfl
  | tick ht => exact tickResp_rxb ht
  | txdone => rfl
  | baud => rfl
  | start => split <;> rfl
  | stop => rfl
  | adrMirror _ hm => exact hm.rxb

/-! TXB. -/

/-- A frame of the length that RXB[1] gives has been copied to TXB, inside the buffer (R85). -/
def CopiesFrame (s t : State) : Prop :=
  ∃ frame, frame.length = lgeOf s + 2 ∧ lgeOf s + 2 ≤ s.params.bufBytes ∧ t.txb = Memory.writeRange s.txb 0 frame

theorem Mirrored.copiesFrame (h : Mirrored s t) : CopiesFrame s t := by
  obtain ⟨lge, frame, hl, hb, hr, rfl⟩ := h
  rw [CopiesFrame, lgeOf_of_read hl]
  exact ⟨frame, Memory.readRange_length hr, hb, rfl⟩

theorem CopiesFrame.read_beyond (h : CopiesFrame s t) {a : Nat} (ha : lgeOf s + 2 ≤ a) :
    Memory.read t.txb a = Memory.read s.txb a := by
  obtain ⟨frame, hlen, -, e⟩ := h
  rw [e, Memory.read_writeRange_outside]
  omega

theorem tickResp_txb (h : tickResp (tickResid s) = .next t) : t.txLen = s.txLen ∧ t.txb = s.txb := by
  obtain ⟨_, _, _, _, _, e⟩ := tickResid_frame s
  rw [e] at h
  rcases tickResp_cases h with ⟨-, rfl⟩ | ⟨-, -, rfl⟩ | ⟨-, _, -, rfl⟩ <;> exact ⟨rfl, rfl⟩

/-- The last byte of a valid mirror request copies its frame to TXB and schedules the reply (R85, R98). -/
theorem copiesFrame_of_lastByte (hm : Mirrored (captured d s) u)
    (ha : AddsTelegrams (returnToStart (setLastResult .ok u)) t) : t.txState = .responseWait ∧ CopiesFrame s t := by
  obtain ⟨frame, hlen, hb, e⟩ := hm.copiesFrame
  rw [lgeOf_captured] at hlen hb
  obtain ⟨_, _, -, -, -, rfl⟩ := hm
  obtain ⟨_, rfl, -⟩ := ha
  exact ⟨rfl, frame, hlen, hb, e⟩

/-- TXB and `tx_len` are written by a mirror action on an idle transmitter, and by nothing else (R48c, R51). -/
theorem Transition.txb_cases (h : Transition s i t) :
    (t.txLen = s.txLen ∧ t.txb = s.txb) ∨
    (s.txState = .idle ∧ CopiesFrame s t ∧
      ((∃ b5 node, i = .adrMirror b5 node) ∨ ∃ d, i = .rx d ∧ LastByte d true s ∧ t.txState = .responseWait)) := by
  cases h with
  | telegrams ha =>
    obtain ⟨_, rfl, -⟩ := ha
    exact .inl ⟨rfl, rfl⟩
  | storeStx => exact .inl ⟨rfl, rfl⟩
  | acceptLge => exact .inl ⟨rfl, rfl⟩
  | rejectLge => exact .inl ⟨rfl, rfl⟩
  | storeBody => exact .inl ⟨rfl, rfl⟩
  | mismatch => exact .inl ⟨rfl, rfl⟩
  | dispatch _ ha =>
    obtain ⟨_, rfl, -⟩ := ha
    exact .inl ⟨rfl, rfl⟩
  | @mirrorFrame d _ _ hd hx hm ha =>
    obtain ⟨hw, hcopy⟩ := copiesFrame_of_lastByte hm ha
    exact .inr ⟨hx, hcopy, .inr ⟨d, rfl, hd, hw⟩⟩
  | idleError => exact .inl ⟨rfl, rfl⟩
  | lineError => exact .inl ⟨rfl, rfl⟩
  | tick ht => exact .inl (tickResp_txb ht)
  | txdone => exact .inl ⟨rfl, rfl⟩
  | baud => exact .inl ⟨rfl, rfl⟩
  | start => exact .inl (by split <;> exact ⟨rfl, rfl⟩)
  | stop => exact .inl ⟨rfl, rfl⟩
  | @adrMirror b5 node _ hx hm => exact .inr ⟨hx, hm.copiesFrame, .inl ⟨b5, node, rfl⟩⟩

/-! The class of the frame that wrote TXB. -/

theorem completeFrame_of_lastByte {ok : Bool} (hd : LastByte d ok s) (hf : s.fault = false)
    (h : execRx d s = .next t) : completeFrame (captured d s) = .next t := by
  obtain ⟨lge, hl, hc, -⟩ := hd.checked
  rcases execRx_cases hf hd.running h with ⟨hs, -⟩ | ⟨hs, -⟩ | ⟨hs, -⟩ | ⟨hs, -⟩ | ⟨-, -, lge', hl', hcase⟩
  · simp [hd.inBody] at hs
  · simp [hd.inBody] at hs
  · simp [hd.inBody] at hs
  · simp [hd.inBody] at hs
  · rw [hl, Option.some.injEq] at hl'
    subst hl'
    rcases hcase with ⟨hne, -⟩ | ⟨-, hfr⟩
    · exact absurd hc hne
    · exact hfr

/-- Completing a frame changes `tx_state` only where its ADR byte is a mirror request (R83, R85). -/
theorem classify_mirror_of_completeFrame (hf : s.fault = false) (h : completeFrame s = .next t)
    (ht : t.fault = false) (hx : t.txState ≠ s.txState) :
    ∃ adr, Memory.read s.rxb 2 = some adr ∧ classify adr s.cfgNode = .mirror := by
  obtain ⟨_, _, -, -, hr⟩ := completeFrame_next_iff.mp h
  rcases hr with ⟨-, rfl⟩ | ⟨-, u, hdisp, hu⟩
  · exact absurd rfl hx
  · obtain ⟨adr, hadr, hcls⟩ := dispatchFrame_cases (by exact hf) hdisp
    refine ⟨adr, hadr, ?_⟩
    rcases hcls with ⟨hm, -⟩ | ⟨hm, -⟩ | ⟨-, _, rfl, -⟩
    · exact hm
    · exact hm
    · rcases hu with ⟨-, rfl⟩ | ⟨-, rfl⟩ <;> exact absurd rfl hx

/-- The last byte of a valid frame that changes `tx_state` completes a mirror request (R85). -/
theorem LastByte.mirrorRequest (hd : LastByte d true s) (hi : Invariant s) (hf : s.fault = false)
    (h : execRx d s = .next t) (ht : t.fault = false) (hx : t.txState ≠ s.txState) :
    ∃ frame, completedFrame d s = some frame ∧ validFrame frame ∧ classify (adrOf frame) s.cfgNode = .mirror := by
  obtain ⟨frame, hfr, hv⟩ := hd.completed hi hf
  obtain ⟨adr, hadr, hcls⟩ :=
    classify_mirror_of_completeFrame (s := captured d s) hf (completeFrame_of_lastByte hd hf h) ht hx
  obtain ⟨hmin, hbuf, hr, -⟩ := frameInRxb_of_completedFrame hi hf hfr
  obtain ⟨-, hread⟩ := rxbByte_ok_iff.mp (rxbByte_of_frame hbuf hr (i := 2) (by omega))
  obtain rfl : adr = adrOf frame := Option.some.inj (hadr.symm.trans hread)
  exact ⟨frame, hfr, hv.mp rfl, hcls⟩

/-! The canonical form. -/

/-- Both buffers are in canonical form, inside `BUF_BYTES` (R41, R42). -/
def BuffersWf (s : State) : Prop :=
  Memory.wf s.params.bufBytes s.rxb = true ∧ Memory.wf s.params.bufBytes s.txb = true

theorem Faults.buffersWf (h : Faults s t) : BuffersWf t := by
  obtain ⟨_, _, -, -, rfl⟩ := h
  exact ⟨Memory.wf_nil _, Memory.wf_nil _⟩

theorem ReceivesByte.wf_rxb (h : ReceivesByte d s t) (hw : Memory.wf s.params.bufBytes s.rxb = true) :
    Memory.wf s.params.bufBytes t.rxb = true := by
  rcases h with ⟨-, e⟩ | ⟨j, -, hj, e⟩ <;> rw [e]
  · exact hw
  · exact Memory.wf_write hw hj d

theorem CopiesFrame.wf_txb (h : CopiesFrame s t) (hw : Memory.wf s.params.bufBytes s.txb = true) :
    Memory.wf s.params.bufBytes t.txb = true := by
  obtain ⟨frame, hlen, hb, e⟩ := h
  rw [e]
  exact Memory.wf_writeRange frame hw (by omega)

theorem exec_wf_rxb (h : exec i s = .next t) (ht : t.fault = false)
    (hw : Memory.wf s.params.bufBytes s.rxb = true) : Memory.wf s.params.bufBytes t.rxb = true := by
  obtain ⟨hf, htr⟩ := transition_of_exec h ht
  by_cases hi : ∃ d, i = .rx d
  · obtain ⟨d, rfl⟩ := hi
    exact (execRx_receivesByte hf h ht).wf_rxb hw
  · rw [htr.rxb_of_not_rx (not_exists.mp hi)]
    exact hw

theorem Transition.wf_txb (h : Transition s i t) (hw : Memory.wf s.params.bufBytes s.txb = true) :
    Memory.wf s.params.bufBytes t.txb = true := by
  rcases h.txb_cases with ⟨-, e⟩ | ⟨-, hcopy, -⟩
  · rw [e]
    exact hw
  · exact hcopy.wf_txb hw

theorem Transition.fault (h : Transition s i t) : t.fault = s.fault := by
  rcases h.control_cases with hc | ⟨_, -, rfl⟩ | ⟨_, _, -, rfl⟩ | ⟨-, rfl⟩
  · simp only [State.control, Prod.mk.injEq] at hc
    obtain ⟨-, ⟨hfault, -⟩, -⟩ := hc
    exact hfault
  · rfl
  · show (if s.run = .running then stopActions s else s).fault = s.fault
    split <;> rfl
  · rfl

/-- Every instruction keeps the form: a fault empties both buffers, and every write is inside its buffer. -/
theorem exec_buffersWf (h : exec i s = .next t) (hw : BuffersWf s) : BuffersWf t := by
  cases hf : s.fault with
  | true =>
    rw [exec_faulted i hf] at h
    cases h
    exact hw
  | false =>
    rcases exec_cases hf h with hx | htr
    · exact hx.buffersWf
    · obtain ⟨hrx, htx⟩ := hw
      rw [BuffersWf, exec_params h]
      exact ⟨exec_wf_rxb h (htr.fault.trans hf) hrx, htr.wf_txb htx⟩

end Sys2Proof.Machine

namespace Sys2Proof.Proofs

open Sys2Proof.Machine Sys2Proof.Safety

/-- Settles O48: RX_CHAR stores one byte, and no transition of another instruction writes RXB. -/
theorem onlyReceivedCharactersWriteRxb : Obligations.OnlyReceivedCharactersWriteRxb := by
  intro i s t h ht
  obtain ⟨hf, htr⟩ := transition_of_exec h ht
  refine ⟨?_, fun hi a => by rw [htr.rxb_of_not_rx hi]⟩
  rintro d rfl
  have hrx := execRx_receivesByte hf h ht
  exact ⟨fun _ => hrx.read_stored, fun _ => hrx.read_other⟩

/-- Settles O49: of the transitions only those of a mirror action write TXB, and the class of a completed frame is that of
its ADR byte. -/
theorem onlyTheMirrorActionWritesTxb : Obligations.OnlyTheMirrorActionWritesTxb := by
  intro i s t hi hf h ht
  rcases (transition_of_exec h ht).2.txb_cases with ⟨hlen, htxb⟩ | ⟨hidle, hcopy, hcause⟩
  · exact .inr ⟨hlen, fun a => by rw [htxb]⟩
  · refine .inl ⟨?_, hidle, fun a => hcopy.read_beyond⟩
    rcases hcause with hadr | ⟨d, rfl, hd, hwait⟩
    · exact .inl hadr
    · obtain ⟨frame, hreq⟩ := hd.mirrorRequest hi hf h ht (by simp [hwait, hidle])
      exact .inr ⟨d, frame, rfl, hreq⟩

/-- Settles O51: `BuffersWf` is the form of both buffers. -/
theorem buffersKeepTheirForm : Obligations.BuffersKeepTheirForm :=
  fun _ _ _ h hrx htx => exec_buffersWf h ⟨hrx, htx⟩

end Sys2Proof.Proofs
end

section
/-! The ADR byte and its map (30_encoding.md R59, R60): the byte as its three class bits and its node field, in which terms
the classifier, the decoder and the encoder are each one equation. -/

namespace Sys2Proof

/-- The ADR byte with these bits 7, 6, 5 and this node field (R59). -/
def adrByte (b7 b6 b5 : Bool) (node : Node) : Byte :=
  BitVec.ofBool b7 ++ BitVec.ofBool b6 ++ BitVec.ofBool b5 ++ node

section AdrByte

variable (b7 b6 b5 : Bool) (node N : Node)

@[simp] theorem adrByte_node : (adrByte b7 b6 b5 node).extractLsb' 0 5 = node := BitVec.extractLsb'_append_eq_right

@[simp] theorem adrByte_bit5 : (adrByte b7 b6 b5 node).getLsbD 5 = b5 := by
  rw [adrByte, BitVec.getLsbD_append, BitVec.getLsbD_append]
  simp

@[simp] theorem adrByte_bit6 : (adrByte b7 b6 b5 node).getLsbD 6 = b6 := by
  rw [adrByte, BitVec.getLsbD_append, BitVec.getLsbD_append, BitVec.getLsbD_append]
  simp

@[simp] theorem adrByte_bit7 : (adrByte b7 b6 b5 node).getLsbD 7 = b7 := by
  rw [adrByte, BitVec.getLsbD_append, BitVec.getLsbD_append, BitVec.getLsbD_append]
  simp

end AdrByte

/-- Every byte is the ADR byte of its own bits. -/
theorem adrByte_of_bits (a : Byte) :
    adrByte (a.getLsbD 7) (a.getLsbD 6) (a.getLsbD 5) (a.extractLsb' 0 5) = a := by
  revert a; decide

/-! The masks of R8 as bits. -/

theorem and_adrSpecial_eq_zero_iff (a : Byte) : a &&& Config.adrSpecial = 0 ↔ a.getLsbD 7 = false := by
  revert a; decide

theorem and_adrMirror_eq_zero_iff (a : Byte) : a &&& Config.adrMirror = 0 ↔ a.getLsbD 6 = false := by
  revert a; decide

theorem and_adrBcast_eq_zero_iff (a : Byte) : a &&& Config.adrBcast = 0 ↔ a.getLsbD 5 = false := by
  revert a; decide

theorem and_adrClassMask_eq_zero_iff (a : Byte) :
    a &&& Config.adrClassMask = 0 ↔ a.getLsbD 7 = false ∧ a.getLsbD 6 = false ∧ a.getLsbD 5 = false := by
  revert a; decide

theorem classBits_eq_zero_iff (a : Byte) :
    a.extractLsb' 5 3 = 0 ↔ a.getLsbD 7 = false ∧ a.getLsbD 6 = false ∧ a.getLsbD 5 = false := by
  revert a; decide

theorem and_adrNodeMask_eq_iff (a : Byte) (N : Node) :
    a &&& Config.adrNodeMask = N.setWidth 8 ↔ a.extractLsb' 0 5 = N := by
  have hfield : a &&& Config.adrNodeMask = (a.extractLsb' 0 5).setWidth 8 := by revert a; decide
  rw [hfield]
  constructor
  · intro h
    have := congrArg (BitVec.setWidth 5) h
    simpa using this
  · rintro rfl
    rfl

/-- The classifier in terms of the bits of the ADR byte (R60). -/
theorem classify_eq (a : Byte) (N : Node) :
    classify a N =
      if a.getLsbD 7 then .special
      else if a.getLsbD 6 ∧ a.extractLsb' 0 5 = N then .mirror
      else if a.getLsbD 5 then .broadcast
      else if a.extractLsb' 0 5 = N then .standard
      else .unaddressed := by
  simp only [classify, ne_eq, and_adrSpecial_eq_zero_iff, and_adrMirror_eq_zero_iff, and_adrBcast_eq_zero_iff,
    and_adrClassMask_eq_zero_iff, and_adrNodeMask_eq_iff, Bool.not_eq_false]
  by_cases hm : a.getLsbD 6 = true ∧ a.extractLsb' 0 5 = N
  · simp only [hm, and_self, if_true]
  · have hrow (h7 : ¬a.getLsbD 7 = true) (h5 : ¬a.getLsbD 5 = true) :
        ((a.getLsbD 7 = false ∧ a.getLsbD 6 = false ∧ a.getLsbD 5 = false) ∧ a.extractLsb' 0 5 = N) ↔
          a.extractLsb' 0 5 = N :=
      ⟨And.right, fun hN => ⟨⟨by simpa using h7, by simpa [hN] using hm, by simpa using h5⟩, hN⟩⟩
    simp only [hm, if_false]
    split_ifs with h7 h5 <;> simp_all

/-- The decoder on the parts of an ADR byte (R59, R60). -/
theorem decodeAdr_adrByte (N : Node) (b7 b6 b5 : Bool) (node : Node) :
    decodeAdr N (adrByte b7 b6 b5 node) =
      if b7 then .adrSpecial (BitVec.ofBool b6 ++ BitVec.ofBool b5 ++ node)
      else if b6 ∧ node = N then .adrMirror b5 node
      else if b5 then .adrBroadcast b6 node
      else if node = N then .adrStandard node
      else .adrUnaddressed b6 node := by
  have hlow : (adrByte b7 b6 b5 node).extractLsb' 0 7 = BitVec.ofBool b6 ++ BitVec.ofBool b5 ++ node := by
    revert b7 b6 b5 node; decide
  rw [decodeAdr, classify_eq, adrByte_bit7, adrByte_bit6, adrByte_bit5, adrByte_node, hlow]
  split_ifs <;> rfl

/-! The five rows of the encoder. -/

theorem encode_adrSpecial (b6 b5 : Bool) (node : Node) :
    encode (.adrSpecial (BitVec.ofBool b6 ++ BitVec.ofBool b5 ++ node)) = .adr (adrByte true b6 b5 node) :=
  congrArg Code.adr (by revert b6 b5 node; decide)

theorem encode_adrMirror (b5 : Bool) (node : Node) :
    encode (.adrMirror b5 node) = .adr (adrByte false true b5 node) := rfl

theorem encode_adrBroadcast (b6 : Bool) (node : Node) :
    encode (.adrBroadcast b6 node) = .adr (adrByte false b6 true node) := rfl

theorem encode_adrStandard (node : Node) : encode (.adrStandard node) = .adr (adrByte false false false node) := rfl

theorem encode_adrUnaddressed (b6 : Bool) (node : Node) :
    encode (.adrUnaddressed b6 node) = .adr (adrByte false b6 false node) := rfl

end Sys2Proof

namespace Sys2Proof.Proofs

/-- Settles O4: the rows of the map read off the classifier's bits. -/
theorem classifyFollowsTheAdrMap : Obligations.ClassifyFollowsTheAdrMap := by
  intro adr N
  rw [classify_eq, classBits_eq_zero_iff]
  generalize adr.getLsbD 7 = b7, adr.getLsbD 6 = b6, adr.getLsbD 5 = b5, adr.extractLsb' 0 5 = node
  split_ifs with h7 hm h5 hs
  · simp [h7]
  · simp [h7, hm]
  · simp [h7, hm, h5]
  · have h6 : b6 = false := by simpa [hs] using hm
    simp [h7, h5, hs, h6]
  · simp [h7, h5, hs]

end Sys2Proof.Proofs
end

section
/-! Event words (30_encoding.md R61 to R63): the fields of a word and the masks of the event map, the instruction of each
word as a relation with one case for each row, and the fields of the encoder's words. -/

namespace Sys2Proof

/-! Fields and masks. -/

/-- What a mask leaves of a word is the field under it. -/
theorem and_mask_eq_iff {n : Nat} (x : BitVec n) {start len : Nat} (h : start + len ≤ n) (p : BitVec len) :
    x &&& (BitVec.allOnes len).setWidth n <<< start = p.setWidth n <<< start ↔ x.extractLsb' start len = p := by
  have hfield : x &&& (BitVec.allOnes len).setWidth n <<< start = (x.extractLsb' start len).setWidth n <<< start := by
    ext i hi
    by_cases hs : i < start
    · simp [hs]
    · simp [hs, BitVec.getLsbD_eq_getElem hi, show start + (i - start) = i by omega, Bool.and_comm]
  have hback (q : BitVec len) : (q.setWidth n <<< start).extractLsb' start len = q := by
    ext i hi
    simp [show start + i < n by omega, BitVec.getLsbD_eq_getElem hi]
  rw [hfield]
  refine ⟨fun hx => ?_, fun hx => by rw [hx]⟩
  rw [← hback (x.extractLsb' start len), hx, hback]

theorem append_inj_iff {n k : Nat} {a c : BitVec n} {b d : BitVec k} : a ++ b = c ++ d ↔ a = c ∧ b = d := by
  constructor
  · intro h
    have hl := congrArg (BitVec.extractLsb' k n) h
    have hr := congrArg (BitVec.extractLsb' 0 k) h
    simp only [BitVec.extractLsb'_append_eq_left, BitVec.extractLsb'_append_eq_right] at hl hr
    exact ⟨hl, hr⟩
  · rintro ⟨rfl, rfl⟩
    rfl

section Word

variable (w : EventWord)

theorem opcode_append_rest : eventOpcode w ++ w.extractLsb' 0 28 = w :=
  BitVec.extractLsb'_append_extractLsb' (w := 4) (len := 28)

theorem toNat_ushiftRight_opcode : (w >>> 28).toNat = (eventOpcode w).toNat := by
  have := w.isLt
  simp [eventOpcode, Nat.shiftRight_eq_div_pow]
  omega

/-- The opcode is what remains of the word after the shift by 28. -/
theorem ushiftRight_eq_iff {k : EventWord} : w >>> 28 = k ↔ (eventOpcode w).toNat = k.toNat := by
  rw [← toNat_ushiftRight_opcode, BitVec.toNat_inj]

/-- A word belongs to a row of the event map when it has the row's opcode and the bits that the row marks 0 are 0. -/
theorem matchesWord_iff (op : BitVec 4) (m : BitVec 28) :
    (EventRow.mk (BitVec.allOnes 4 ++ m) (op ++ 0#28)).matchesWord w = true ↔
      (eventOpcode w).toNat = op.toNat ∧ w &&& (0#4 ++ m) = 0 := by
  have hrow : w &&& (BitVec.allOnes 4 ++ m) = eventOpcode w ++ (w.extractLsb' 0 28 &&& m) := by
    conv_lhs => rw [← opcode_append_rest w]
    rw [BitVec.and_append, BitVec.and_allOnes]
  have hzero : w &&& (0#4 ++ m) = 0#4 ++ (w.extractLsb' 0 28 &&& m) := by
    conv_lhs => rw [← opcode_append_rest w]
    rw [BitVec.and_append, BitVec.and_zero]
  rw [EventRow.matchesWord, beq_iff_eq, hrow, hzero, append_inj_iff, BitVec.toNat_inj,
    show (0 : EventWord) = 0#4 ++ 0#28 from rfl, append_inj_iff]
  simp

/-! The bits that the rows mark 0, as masks. -/

theorem rxZero_iff : w &&& 0x0FFFFF00 = 0 ↔ w.extractLsb' 8 20 = 0 :=
  and_mask_eq_iff w (start := 8) (len := 20) (by decide) 0

theorem errZero_iff : w &&& 0x0FFFFFFC = 0 ↔ w.extractLsb' 2 26 = 0 :=
  and_mask_eq_iff w (start := 2) (len := 26) (by decide) 0

theorem restZero_iff : w &&& 0x0FFFFFFF = 0 ↔ w.extractLsb' 0 28 = 0 :=
  and_mask_eq_iff w (start := 0) (len := 28) (by decide) 0

theorem baudZero_iff : w &&& 0x0F000000 = 0 ↔ w.extractLsb' 24 4 = 0 :=
  and_mask_eq_iff w (start := 24) (len := 4) (by decide) 0

theorem startZero_iff : w &&& 0x0FFFF0E0 = 0 ↔ w.extractLsb' 5 3 = 0 ∧ w.extractLsb' 12 16 = 0 := by
  have hlow : w &&& 0xE0 = 0 ↔ w.extractLsb' 5 3 = 0 := and_mask_eq_iff w (start := 5) (len := 3) (by decide) 0
  have hhigh : w &&& 0x0FFFF000 = 0 ↔ w.extractLsb' 12 16 = 0 :=
    and_mask_eq_iff w (start := 12) (len := 16) (by decide) 0
  rw [← hlow, ← hhigh, show (0x0FFFF0E0 : EventWord) = 0xE0 ||| 0x0FFFF000 from rfl, BitVec.and_or_distrib_left]
  exact BitVec.or_eq_zero_iff

theorem errKind_iff : w &&& 3 = 3 ↔ w.extractLsb' 0 2 = 3 :=
  and_mask_eq_iff w (start := 0) (len := 2) (by decide) 3

end Word

/-! The words that are refused, opcode by opcode (R63). -/

section Refused

variable {w : EventWord}

theorem refused_rx_iff (hop : (eventOpcode w).toNat = 1) :
    illegalReason w ≠ none ↔ w.extractLsb' 8 20 ≠ 0 := by
  simp [illegalReason, hop]

theorem refused_err_iff (hop : (eventOpcode w).toNat = 2) :
    illegalReason w ≠ none ↔ w.extractLsb' 2 26 ≠ 0 ∨ w.extractLsb' 0 2 = 3 := by
  simp only [illegalReason, hop]
  split_ifs with hz hk <;> simp_all

theorem refused_rest_iff (hop : (eventOpcode w).toNat = 3 ∨ (eventOpcode w).toNat = 4 ∨ (eventOpcode w).toNat = 7) :
    illegalReason w ≠ none ↔ w.extractLsb' 0 28 ≠ 0 := by
  rcases hop with hop | hop | hop <;> simp [illegalReason, hop]

theorem refused_baud_iff (hop : (eventOpcode w).toNat = 5) :
    illegalReason w ≠ none ↔ w.extractLsb' 24 4 ≠ 0 := by
  simp [illegalReason, hop]

theorem refused_start_iff (hop : (eventOpcode w).toNat = 6) :
    illegalReason w ≠ none ↔ ¬(w.extractLsb' 5 3 = 0 ∧ w.extractLsb' 12 16 = 0) := by
  simp [illegalReason, hop]

theorem refused_reserved (hop : (eventOpcode w).toNat = 0 ∨ 8 ≤ (eventOpcode w).toNat) : illegalReason w ≠ none := by
  unfold illegalReason
  split
  case h_8 => simp
  all_goals omega

end Refused

/-! The rows of the event map. -/

/-- `w` stands for the instruction: one constructor for each legal row of R61, and one for the words of R63. -/
inductive Decodes (w : EventWord) : Instr → Prop
  | rx {d : Byte} : (eventOpcode w).toNat = 1 → w.extractLsb' 8 20 = 0 → w.extractLsb' 0 8 = d → Decodes w (.rx d)
  | err {k : LineErr} : (eventOpcode w).toNat = 2 → w.extractLsb' 2 26 = 0 → w.extractLsb' 0 2 = k.bits →
      Decodes w (.err k)
  | tick : (eventOpcode w).toNat = 3 → w.extractLsb' 0 28 = 0 → Decodes w .tick
  | txdone : (eventOpcode w).toNat = 4 → w.extractLsb' 0 28 = 0 → Decodes w .txdone
  | baud {b : Baud} : (eventOpcode w).toNat = 5 → w.extractLsb' 24 4 = 0 → w.extractLsb' 0 24 = b → Decodes w (.baud b)
  | start {nd : Node} {en : Enables} : (eventOpcode w).toNat = 6 → w.extractLsb' 5 3 = 0 → w.extractLsb' 12 16 = 0 →
      w.extractLsb' 0 5 = nd → w.extractLsb' 8 4 = en → Decodes w (.start nd en)
  | stop : (eventOpcode w).toNat = 7 → w.extractLsb' 0 28 = 0 → Decodes w .stop
  | illegal : illegalReason w ≠ none → Decodes w (.illegal w)

variable {w : EventWord} {i : Instr}

theorem lineErrOf_eq_some_iff {b : BitVec 2} {k : LineErr} : lineErrOf b = some k ↔ b = k.bits := by
  revert b; cases k <;> decide

theorem lineErrOf_eq_none_iff {b : BitVec 2} : lineErrOf b = none ↔ b = 3 := by
  revert b; decide

theorem decodes_whenZero {z : Bool} (hlegal : z = true → Decodes w i) (hbits : z = false → illegalReason w ≠ none) :
    Decodes w (whenZero z w i) := by
  cases z with
  | true => exact hlegal rfl
  | false => exact .illegal (hbits rfl)

/-- Every word stands for what it decodes to. -/
theorem decodes_decodeEvent (w : EventWord) : Decodes w (decodeEvent w) := by
  unfold decodeEvent
  split
  case h_1 hop =>
    exact decodes_whenZero (fun hz => .rx hop (by simpa using hz) rfl) fun hz =>
      (refused_rx_iff hop).mpr (by simpa using hz)
  case h_2 hop =>
    split
    case h_1 k hk =>
      exact decodes_whenZero (fun hz => .err hop (by simpa using hz) (lineErrOf_eq_some_iff.mp hk)) fun hz =>
        (refused_err_iff hop).mpr (.inl (by simpa using hz))
    case h_2 hk => exact .illegal ((refused_err_iff hop).mpr (.inr (lineErrOf_eq_none_iff.mp hk)))
  case h_3 hop =>
    exact decodes_whenZero (fun hz => .tick hop (by simpa using hz)) fun hz =>
      (refused_rest_iff (.inl hop)).mpr (by simpa using hz)
  case h_4 hop =>
    exact decodes_whenZero (fun hz => .txdone hop (by simpa using hz)) fun hz =>
      (refused_rest_iff (.inr (.inl hop))).mpr (by simpa using hz)
  case h_5 hop =>
    exact decodes_whenZero (fun hz => .baud hop (by simpa using hz) rfl) fun hz =>
      (refused_baud_iff hop).mpr (by simpa using hz)
  case h_6 hop =>
    refine decodes_whenZero (fun hz => ?_) fun hz => (refused_start_iff hop).mpr (by simpa using hz)
    obtain ⟨h5, h12⟩ := Bool.and_eq_true_iff.mp hz
    exact .start hop (beq_iff_eq.mp h5) (beq_iff_eq.mp h12) rfl rfl
  case h_7 hop =>
    exact decodes_whenZero (fun hz => .stop hop (by simpa using hz)) fun hz =>
      (refused_rest_iff (.inr (.inr hop))).mpr (by simpa using hz)
  case h_8 h1 h2 h3 h4 h5 h6 h7 =>
    refine .illegal (refused_reserved ?_)
    grind

/-- A word that stands for an instruction other than ILLEGAL is not refused. -/
theorem Decodes.illegalReason_eq_none (h : Decodes w i) (hi : i ≠ .illegal w) : illegalReason w = none := by
  by_contra hne
  cases h with
  | rx hop hz _ => exact (refused_rx_iff hop).mp hne hz
  | @err k hop hz hk =>
    rcases (refused_err_iff hop).mp hne with h | h
    · exact h hz
    · cases k <;> simp [hk, LineErr.bits] at h
  | tick hop hz => exact (refused_rest_iff (.inl hop)).mp hne hz
  | txdone hop hz => exact (refused_rest_iff (.inr (.inl hop))).mp hne hz
  | baud hop hz _ => exact (refused_baud_iff hop).mp hne hz
  | start hop h5 h12 _ _ => exact (refused_start_iff hop).mp hne ⟨h5, h12⟩
  | stop hop hz => exact (refused_rest_iff (.inr (.inr hop))).mp hne hz
  | illegal => exact hi rfl

/-- The decoder answers ILLEGAL for the words that are refused. -/
theorem decodeEvent_eq_illegal_iff : decodeEvent w = .illegal w ↔ illegalReason w ≠ none := by
  have h := decodes_decodeEvent w
  constructor
  · intro he
    rw [he] at h
    cases h with
    | illegal hne => exact hne
  · intro hne
    by_contra hi
    exact hne (h.illegalReason_eq_none hi)

/-- A word stands for one instruction only. -/
theorem Decodes.decodeEvent_eq (h : Decodes w i) : decodeEvent w = i := by
  cases h with
  | rx hop hz hd => simp [decodeEvent, hop, hz, hd, whenZero]
  | err hop hz hk => simp [decodeEvent, hop, hz, lineErrOf_eq_some_iff.mpr hk, whenZero]
  | tick hop hz => simp [decodeEvent, hop, hz, whenZero]
  | txdone hop hz => simp [decodeEvent, hop, hz, whenZero]
  | baud hop hz hb => simp [decodeEvent, hop, hz, hb, whenZero]
  | start hop h5 h12 hnd hen => simp [decodeEvent, hop, h5, h12, hnd, hen, whenZero]
  | stop hop hz => simp [decodeEvent, hop, hz, whenZero]
  | illegal hne => exact decodeEvent_eq_illegal_iff.mpr hne

theorem opcode_eq {k : BitVec 4} (hop : (eventOpcode w).toNat = k.toNat) : w.extractLsb' 28 4 = k :=
  BitVec.eq_of_toNat_eq hop

/-- Neighbouring fields put together are one field. -/
theorem join_fields (w : EventWord) {low len start top : Nat} (h : start = low + len) :
    w.extractLsb' start top ++ w.extractLsb' low len = w.extractLsb' low (top + len) :=
  BitVec.extractLsb'_append_extractLsb'_eq_extractLsb' h

theorem fields_rx (w : EventWord) : w.extractLsb' 28 4 ++ w.extractLsb' 8 20 ++ w.extractLsb' 0 8 = w := by
  rw [join_fields w (show 28 = 8 + 20 from rfl), join_fields w (show 8 = 0 + 8 from rfl)]
  exact BitVec.extractLsb'_eq_self

theorem fields_err (w : EventWord) : w.extractLsb' 28 4 ++ w.extractLsb' 2 26 ++ w.extractLsb' 0 2 = w := by
  rw [join_fields w (show 28 = 2 + 26 from rfl), join_fields w (show 2 = 0 + 2 from rfl)]
  exact BitVec.extractLsb'_eq_self

theorem fields_baud (w : EventWord) : w.extractLsb' 28 4 ++ w.extractLsb' 24 4 ++ w.extractLsb' 0 24 = w := by
  rw [join_fields w (show 28 = 24 + 4 from rfl), join_fields w (show 24 = 0 + 24 from rfl)]
  exact BitVec.extractLsb'_eq_self

theorem fields_start (w : EventWord) :
    w.extractLsb' 28 4 ++ w.extractLsb' 12 16 ++ w.extractLsb' 8 4 ++ w.extractLsb' 5 3 ++ w.extractLsb' 0 5 = w := by
  rw [join_fields w (show 28 = 12 + 16 from rfl), join_fields w (show 12 = 8 + 4 from rfl),
    join_fields w (show 8 = 5 + 3 from rfl), join_fields w (show 5 = 0 + 5 from rfl)]
  exact BitVec.extractLsb'_eq_self

theorem opcode_append_zero {k : BitVec 4} (hop : (eventOpcode w).toNat = k.toNat) (hz : w.extractLsb' 0 28 = 0) :
    k ++ 0#28 = w := by
  have hw := opcode_append_rest w
  rwa [eventOpcode, opcode_eq hop, hz] at hw

/-- A word is the code of the instruction it stands for: its fields put together give it back. -/
theorem Decodes.encode_eq (h : Decodes w i) : encode i = .event w := by
  cases h with
  | rx hop hz hd =>
    have hw := fields_rx w
    rw [opcode_eq (k := 1) hop, hz, hd] at hw
    exact congrArg Code.event hw
  | err hop hz hk =>
    have hw := fields_err w
    rw [opcode_eq (k := 2) hop, hz, hk] at hw
    exact congrArg Code.event hw
  | tick hop hz => exact congrArg Code.event (opcode_append_zero hop hz)
  | txdone hop hz => exact congrArg Code.event (opcode_append_zero hop hz)
  | baud hop hz hb =>
    have hw := fields_baud w
    rw [opcode_eq (k := 5) hop, hz, hb] at hw
    exact congrArg Code.event hw
  | start hop h5 h12 hnd hen =>
    have hw := fields_start w
    rw [opcode_eq (k := 6) hop, h5, h12, hnd, hen] at hw
    exact congrArg Code.event hw
  | stop hop hz => exact congrArg Code.event (opcode_append_zero hop hz)
  | illegal hne => rfl

/-! The encoder's words stand for what they encode. -/

theorem decodes_rxCode (d : Byte) : Decodes (0x1#4 ++ 0#20 ++ d) (.rx d) := by
  have hop : eventOpcode (0x1#4 ++ 0#20 ++ d) = 1 := by
    rw [eventOpcode, BitVec.extractLsb'_append_eq_of_le (by decide)]
    rfl
  have hz : (0x1#4 ++ 0#20 ++ d).extractLsb' 8 20 = 0 := by
    rw [BitVec.extractLsb'_append_eq_of_le (by decide)]
    rfl
  exact .rx (congrArg BitVec.toNat hop) hz BitVec.extractLsb'_append_eq_right

theorem decodes_errCode (k : LineErr) : Decodes (0x2#4 ++ 0#26 ++ k.bits) (.err k) := by
  cases k <;> exact .err rfl rfl rfl

theorem decodes_baudCode (b : Baud) : Decodes (0x5#4 ++ 0#4 ++ b) (.baud b) := by
  have hop : eventOpcode (0x5#4 ++ 0#4 ++ b) = 5 := by
    rw [eventOpcode, BitVec.extractLsb'_append_eq_of_le (by decide)]
    rfl
  have hz : (0x5#4 ++ 0#4 ++ b).extractLsb' 24 4 = 0 := by
    rw [BitVec.extractLsb'_append_eq_of_le (by decide)]
    rfl
  exact .baud (congrArg BitVec.toNat hop) hz BitVec.extractLsb'_append_eq_right

theorem decodes_startCode (nd : Node) (en : Enables) : Decodes (0x6#4 ++ 0#16 ++ en ++ 0#3 ++ nd) (.start nd en) := by
  have hop : eventOpcode (0x6#4 ++ 0#16 ++ en ++ 0#3 ++ nd) = 6 := by
    rw [eventOpcode]
    iterate 3 rw [BitVec.extractLsb'_append_eq_of_le (by decide)]
    rfl
  have h5 : (0x6#4 ++ 0#16 ++ en ++ 0#3 ++ nd).extractLsb' 5 3 = 0 := by
    rw [BitVec.extractLsb'_append_eq_of_le (by decide)]
    exact BitVec.extractLsb'_append_eq_right
  have h12 : (0x6#4 ++ 0#16 ++ en ++ 0#3 ++ nd).extractLsb' 12 16 = 0 := by
    iterate 3 rw [BitVec.extractLsb'_append_eq_of_le (by decide)]
    rfl
  have hen : (0x6#4 ++ 0#16 ++ en ++ 0#3 ++ nd).extractLsb' 8 4 = en := by
    iterate 2 rw [BitVec.extractLsb'_append_eq_of_le (by decide)]
    exact BitVec.extractLsb'_append_eq_right
  exact .start (congrArg BitVec.toNat hop) h5 h12 BitVec.extractLsb'_append_eq_right hen

/-! The rows of the opcode table and the refused words. -/

theorem Decodes.legalWord_eq_true (h : Decodes w i) (hi : i ≠ .illegal w) : legalWord w = true := by
  have key (hrow : ∃ u, encode i = .event u ∧ legalWord u = true) : legalWord w = true := by
    obtain ⟨u, hu, hl⟩ := hrow
    cases h.encode_eq.symm.trans hu
    exact hl
  cases h with
  | rx => exact key (Laws.CodeFitsTheTable.rx _ 0 rfl)
  | err => exact key (Laws.CodeFitsTheTable.err _ 0 rfl)
  | tick => exact key (Laws.CodeFitsTheTable.tick 0 rfl)
  | txdone => exact key (Laws.CodeFitsTheTable.txdone 0 rfl)
  | baud => exact key (Laws.CodeFitsTheTable.baud _ 0 rfl)
  | start => exact key (Laws.CodeFitsTheTable.start _ _ 0 rfl)
  | stop => exact key (Laws.CodeFitsTheTable.stop 0 rfl)
  | illegal => exact absurd rfl hi

/-- A word that a row of the event map matches is refused only as RX_ERR with kind 3. -/
theorem illegalReason_eq_none_of_legalWord (h : legalWord w = true) : illegalReason w = none := by
  rw [legalWord, Bool.and_eq_true, bne_iff_ne] at h
  obtain ⟨hrow, h3⟩ := h
  by_contra hne
  simp only [eventRows, List.any_cons, List.any_nil, Bool.or_eq_true, Bool.or_false] at hrow
  rcases hrow with h | h | h | h | h | h | h
  · obtain ⟨hop, hz⟩ := (matchesWord_iff w 1 0xFFFFF00).mp h
    exact (refused_rx_iff hop).mp hne ((rxZero_iff w).mp hz)
  · obtain ⟨hop, hz⟩ := (matchesWord_iff w 2 0xFFFFFFC).mp h
    have hz := (errZero_iff w).mp hz
    rcases (refused_err_iff hop).mp hne with hz' | hk
    · exact hz' hz
    · have hw := fields_err w
      rw [opcode_eq (k := 2) hop, hz, hk] at hw
      exact h3 hw.symm
  · obtain ⟨hop, hz⟩ := (matchesWord_iff w 3 0xFFFFFFF).mp h
    exact (refused_rest_iff (.inl hop)).mp hne ((restZero_iff w).mp hz)
  · obtain ⟨hop, hz⟩ := (matchesWord_iff w 4 0xFFFFFFF).mp h
    exact (refused_rest_iff (.inr (.inl hop))).mp hne ((restZero_iff w).mp hz)
  · obtain ⟨hop, hz⟩ := (matchesWord_iff w 5 0xF000000).mp h
    exact (refused_baud_iff hop).mp hne ((baudZero_iff w).mp hz)
  · obtain ⟨hop, hz⟩ := (matchesWord_iff w 6 0xFFFF0E0).mp h
    exact (refused_start_iff hop).mp hne ((startZero_iff w).mp hz)
  · obtain ⟨hop, hz⟩ := (matchesWord_iff w 7 0xFFFFFFF).mp h
    exact (refused_rest_iff (.inr (.inr hop))).mp hne ((restZero_iff w).mp hz)

theorem legalWord_iff : legalWord w = true ↔ illegalReason w = none := by
  refine ⟨illegalReason_eq_none_of_legalWord, fun h => ?_⟩
  exact (decodes_decodeEvent w).legalWord_eq_true fun hi => decodeEvent_eq_illegal_iff.mp hi h

end Sys2Proof
end

section
/-! Decoding and encoding are inverse to each other; the illegal words; the codes and the assembler forms that are written
out in spec/ (30_encoding.md R59 to R63, R66 to R68). -/

namespace Sys2Proof

variable {N : Node} {i : Instr} {w : EventWord}

/-- R63 with the masks of the event map. -/
theorem refused_iff_masks (w : EventWord) :
    illegalReason w ≠ none ↔
      ((w >>> 28 = 0 ∨ 8 ≤ (w >>> 28).toNat) ∨
       (w >>> 28 = 1 ∧ w &&& 0x0FFFFF00 ≠ 0) ∨ (w >>> 28 = 2 ∧ w &&& 0x0FFFFFFC ≠ 0) ∨
       (w >>> 28 = 3 ∧ w &&& 0x0FFFFFFF ≠ 0) ∨ (w >>> 28 = 4 ∧ w &&& 0x0FFFFFFF ≠ 0) ∨
       (w >>> 28 = 5 ∧ w &&& 0x0F000000 ≠ 0) ∨ (w >>> 28 = 6 ∧ w &&& 0x0FFFF0E0 ≠ 0) ∨
       (w >>> 28 = 7 ∧ w &&& 0x0FFFFFFF ≠ 0) ∨
       (w >>> 28 = 2 ∧ w &&& 3 = 3)) := by
  simp only [ushiftRight_eq_iff, toNat_ushiftRight_opcode, ne_eq, rxZero_iff, errZero_iff, restZero_iff, baudZero_iff,
    startZero_iff, errKind_iff]
  rcases (by omega : ((eventOpcode w).toNat = 0 ∨ 8 ≤ (eventOpcode w).toNat) ∨ (eventOpcode w).toNat = 1 ∨
    (eventOpcode w).toNat = 2 ∨ ((eventOpcode w).toNat = 3 ∨ (eventOpcode w).toNat = 4 ∨ (eventOpcode w).toNat = 7) ∨
    (eventOpcode w).toNat = 5 ∨ (eventOpcode w).toNat = 6) with hop | hop | hop | hop | hop | hop
  · exact iff_of_true (refused_reserved hop) (.inl hop)
  · simpa [hop] using refused_rx_iff hop
  · simpa [hop] using refused_err_iff hop
  · rw [← ne_eq, refused_rest_iff hop]
    rcases hop with hop | hop | hop <;> simp [hop]
  · simpa [hop] using refused_baud_iff hop
  · simpa [hop] using refused_start_iff hop

theorem decodeEvent_of_wellFormed_illegal (h : (Instr.illegal w).wellFormed N = true) : decodeEvent w = .illegal w :=
  decodeEvent_eq_illegal_iff.mpr fun hl => by simp [Instr.wellFormed, legalWord_iff.mpr hl] at h

theorem Decodes.wellFormed (h : Decodes w i) : i.wellFormed N = true := by
  cases h with
  | illegal hne =>
    have hl : legalWord w = false := by rwa [← Bool.not_eq_true, legalWord_iff]
    rw [Instr.wellFormed, hl]
    rfl
  | rx | err | tick | txdone | baud | start | stop => rfl

/-- Seven bits are the ADR bits 6, 5 and a node field. -/
theorem low_of_bits (low : BitVec 7) :
    BitVec.ofBool (low.getLsbD 6) ++ BitVec.ofBool (low.getLsbD 5) ++ low.extractLsb' 0 5 = low := by
  revert low; decide

/-- Decoding the code of a well-formed instruction gives it back (R59, R61). -/
theorem decode_encode (h : i.wellFormed N = true) : decode N (encode i) = i := by
  cases i with
  | rx d => exact (decodes_rxCode d).decodeEvent_eq
  | err k => exact (decodes_errCode k).decodeEvent_eq
  | tick => rfl
  | txdone => rfl
  | baud b => exact (decodes_baudCode b).decodeEvent_eq
  | start nd en => exact (decodes_startCode nd en).decodeEvent_eq
  | stop => rfl
  | illegal w => exact decodeEvent_of_wellFormed_illegal h
  | adrSpecial low =>
    rw [← low_of_bits low, encode_adrSpecial, decode, decodeAdr_adrByte]
    rfl
  | adrMirror b5 node =>
    have hN : node = N := by simpa [Instr.wellFormed] using h
    rw [encode_adrMirror, decode, decodeAdr_adrByte]
    simp [hN]
  | adrBroadcast b6 node =>
    have hN : ¬(b6 = true ∧ node = N) := by simpa [Instr.wellFormed, or_iff_not_imp_left] using h
    rw [encode_adrBroadcast, decode, decodeAdr_adrByte, if_neg Bool.false_ne_true, if_neg hN, if_pos rfl]
  | adrStandard node =>
    have hN : node = N := by simpa [Instr.wellFormed] using h
    rw [encode_adrStandard, decode, decodeAdr_adrByte]
    simp [hN]
  | adrUnaddressed b6 node =>
    have hN : node ≠ N := by simpa [Instr.wellFormed] using h
    rw [encode_adrUnaddressed, decode, decodeAdr_adrByte]
    simp [hN]

/-- What an ADR byte decodes to is well-formed, and its code is that byte. -/
theorem decodeAdr_spec (N : Node) (b7 b6 b5 : Bool) (node : Node) :
    (decodeAdr N (adrByte b7 b6 b5 node)).wellFormed N = true ∧
      encode (decodeAdr N (adrByte b7 b6 b5 node)) = .adr (adrByte b7 b6 b5 node) := by
  rw [decodeAdr_adrByte]
  cases b7 with
  | true => exact ⟨rfl, encode_adrSpecial b6 b5 node⟩
  | false =>
    rw [if_neg Bool.false_ne_true]
    split_ifs with hm h5 hN
    · obtain ⟨rfl, rfl⟩ := hm
      exact ⟨beq_self_eq_true node, encode_adrMirror b5 node⟩
    · subst h5
      exact ⟨by simpa [Instr.wellFormed, or_iff_not_imp_left] using hm, encode_adrBroadcast b6 node⟩
    · have h6 : b6 = false := by simpa [hN] using hm
      rw [Bool.not_eq_true] at h5
      subst h5 h6 hN
      exact ⟨beq_self_eq_true node, encode_adrStandard node⟩
    · rw [Bool.not_eq_true] at h5
      subst h5
      exact ⟨bne_iff_ne.mpr hN, encode_adrUnaddressed b6 node⟩

end Sys2Proof

namespace Sys2Proof.Proofs

open Sys2Proof.Machine

/-- Settles O1: the fields of an event code are read back, and an ADR byte is read by its bits. -/
theorem decodeOfEncodeIsIdentity : Obligations.DecodeOfEncodeIsIdentity := fun _ _ h => decode_encode h

/-- Settles O2: the fields of a code put together are the code. -/
theorem encodeOfDecodeIsIdentity : Obligations.EncodeOfDecodeIsIdentity := by
  rintro N (w | a)
  · exact ⟨(decodes_decodeEvent w).wellFormed, (decodes_decodeEvent w).encode_eq⟩
  · rw [← adrByte_of_bits a]
    exact decodeAdr_spec N _ _ _ _

/-- Settles O3: ILLEGAL is decoded where the word is refused, opcode by opcode. -/
theorem illegalWordsAreThoseOfTheThreeCases : Obligations.IllegalWordsAreThoseOfTheThreeCases := by
  refine ⟨fun w => ⟨decodeEvent_eq_illegal_iff.trans (refused_iff_masks w), fun hi s hf => ?_⟩, rfl⟩
  rw [hi, exec, execIllegal_live w hf]

/-- Settles O5: each code is evaluated. -/
theorem writtenOutCodesDecode : Obligations.WrittenOutCodesDecode := by
  unfold Obligations.WrittenOutCodesDecode
  decide

/-- Settles O6: where FRAME is admitted, its words are those of its bytes, and each form is evaluated. -/
theorem assemblerFormsGiveTheirWords : Obligations.AssemblerFormsGiveTheirWords := by
  refine ⟨fun P hP => ?_, fun P => ⟨rfl, rfl, rfl, rfl⟩, rfl, rfl⟩
  have hw : (AsmLine.frame 0x00 [0x11, 0x22]).words P = some ((frameBytes 0x00 [0x11, 0x22]).map rxWord) := if_pos hP
  exact ⟨hw.trans rfl, hw.trans rfl⟩

end Sys2Proof.Proofs
end

section
/-! RX_CHAR as equations (40_receive.md R72 to R76, 41_checksum_dispatch.md R80 to R91): what it does in each receive state,
and what the last byte of a frame does, by the check and the class of the frame. -/

namespace Sys2Proof.Machine

open Sys2Proof.Safety Sys2Proof.Statements

variable {s : State} {d adr : Byte} {lge : Nat} {frame : List Byte}

/-! The dispatcher on a frame in RXB. -/

/-- The records are emitted, in order (R11). -/
def emitAll (os : List OutRec) (s : State) : State := { s with out := s.out ++ os }

theorem emitAll_nil (s : State) : emitAll [] s = s := by simp [emitAll]

theorem emitAll_emitAll (os os' : List OutRec) (s : State) : emitAll os' (emitAll os s) = emitAll (os ++ os') s := by
  simp [emitAll]

/-- The `any` action on the frame (R89). -/
theorem actAny_of_frame (h : FrameInRxb s lge frame) :
    actAny s = .next (emitAll (anyRecord s.cfgEn (telegramOf frame)) s) := by
  obtain ⟨hmin, hbuf, hr, hl⟩ := h
  exact emitIfEnabled_of_frame hmin hbuf hr hl 3 .any

/-- The class action of a frame that is no mirror request (R84, R86, R87, R88). -/
theorem runClass_of_frame (h : FrameInRxb s lge frame) (hf : s.fault = false) (hc : classify adr s.cfgNode ≠ .mirror) :
    runClass adr s = .next (emitAll (classRecord s.cfgEn (classify adr s.cfgNode) (telegramOf frame)) s) := by
  obtain ⟨hmin, hbuf, hr, hl⟩ := h
  have hemit := emitIfEnabled_of_frame hmin hbuf hr hl
  cases hk : classify adr s.cfgNode with
  | special =>
    rw [runClass_special hk, execAdrSpecial, unlessFaulted_live hf]
    exact hemit 2 .spec
  | mirror => exact absurd hk hc
  | broadcast =>
    rw [runClass_broadcast hk, execAdrBroadcast, unlessFaulted_live hf]
    exact hemit 1 .bcast
  | standard =>
    rw [runClass_standard hk, execAdrStandard, unlessFaulted_live hf]
    exact hemit 0 .std
  | unaddressed =>
    rw [runClass_unaddressed hk, execAdrUnaddressed, unlessFaulted_live hf]
    exact congrArg Host.Outcome.next (emitAll_nil s).symm

/-- TXB, `tx_len`, the response delay and `tx_state` after the mirror action on the frame (R85, R98). -/
def mirrored (lge : Nat) (frame : List Byte) (s : State) : State :=
  { s with
    txb := Memory.writeRange s.txb 0 frame
    txLen := BitVec.ofNat 9 (lge + 2)
    respCnt := toCnt s.params (respLoad s)
    txState := .responseWait }

/-- The class action of a mirror request, with an idle transmitter (R85). -/
theorem runClass_mirror_of_frame (h : FrameInRxb s lge frame) (hf : s.fault = false)
    (hc : classify adr s.cfgNode = .mirror) (hx : s.txState = .idle) : runClass adr s = .next (mirrored lge frame s) := by
  obtain ⟨-, hbuf, hr, hl⟩ := h
  rw [runClass_mirror hc, execAdrMirror, unlessFaulted_live hf]
  exact mirrorFrame_of_frame hx hbuf hr hl

/-- The dispatcher runs the class action of the frame's ADR byte, then the `any` action (R83). -/
theorem dispatchFrame_of_frame {u : State} (h : FrameInRxb s lge frame) (hc : runClass (adrOf frame) s = .next u)
    (hf : u.fault = false) (hp : u.params = s.params) (hx : u.rxb = s.rxb) :
    dispatchFrame s = .next (emitAll (anyRecord u.cfgEn (telegramOf frame)) u) := by
  obtain ⟨hmin, hbuf, hr, -⟩ := id h
  rw [dispatchFrame, rxbByte_of_frame hbuf hr (by omega), withOk_ok]
  change seqThen (runClass (adrOf frame) s) actAny = _
  rw [hc, seqThen_live hf]
  exact actAny_of_frame (frameInRxb_of_rxb_eq h hp hx)

/-! The completion of a frame (R76, R80). -/

/-- The state in which a frame that has passed its check is dispatched. -/
def checked (s : State) : State := setLastResult .ok { s with residArmed := false, residCnt := 0 }

theorem completeFrame_of_frame (h : FrameInRxb s lge frame) :
    (¬validFrame frame → completeFrame s = .next (returnToStart (setLastResult .bccMismatch s))) ∧
    (validFrame frame → completeFrame s = seqThen (dispatchFrame (checked s)) fun t => .next (returnToStart t)) := by
  obtain ⟨hmin, hbuf, hr, hl⟩ := h
  obtain ⟨ok, hok, hv⟩ := bccMatches_of_frame (s := { s with residArmed := false, residCnt := 0 }) hbuf hr
  rw [completeFrame, rxbByte_of_frame hbuf hr (by omega), withOk_ok, hl, hok, withOk_ok, ← hv]
  cases ok with
  | false => exact ⟨fun _ => rfl, fun h => nomatch h⟩
  | true => exact ⟨fun h => absurd rfl h, fun _ => rfl⟩

/-- A valid frame whose class action raises no fault (R76, R83). -/
theorem completeFrame_of_runClass {u : State} (h : FrameInRxb s lge frame) (hv : validFrame frame)
    (hc : runClass (adrOf frame) (checked s) = .next u) (hf : u.fault = false) (hp : u.params = s.params)
    (hx : u.rxb = s.rxb) :
    completeFrame s = .next (returnToStart (emitAll (anyRecord u.cfgEn (telegramOf frame)) u)) := by
  have hchecked : FrameInRxb (checked s) lge frame := frameInRxb_of_rxb_eq h rfl rfl
  rw [(completeFrame_of_frame h).2 hv, dispatchFrame_of_frame hchecked hc hf hp hx]
  exact seqThen_live (s := emitAll _ u) hf _

/-! RX_CHAR in each receive state. -/

/-- STX has been received in AWAIT_START (R72). -/
def stxStored (s : State) : State :=
  { s with rxb := Memory.write s.rxb 0 Config.stxValue, rxState := .awaitLength }

theorem execRx_stx (hf : s.fault = false) (hr : s.run = .running) (hs : s.rxState = .awaitStart) :
    exec (.rx Config.stxValue) s = .next (stxStored s) := by
  have hw : writeRxb s 0 Config.stxValue = .ok { s with rxb := Memory.write s.rxb 0 Config.stxValue } :=
    writeRxb_ok_iff.mpr ⟨by simp, rfl⟩
  rw [exec, execRx, unlessFaulted_live hf, hr, hs]
  change rxAwaitStart Config.stxValue s = _
  rw [rxAwaitStart, if_pos rfl, hw, withOk_ok]
  rfl

theorem execRx_lge (hf : s.fault = false) (hr : s.run = .running) (hs : s.rxState = .awaitLength)
    (hd : Config.minLge ≤ d.toNat ∧ d.toNat ≤ s.params.maxLge) : exec (.rx d) s = .next (accepted d s) := by
  have hw : writeRxb s 1 d = .ok { s with rxb := Memory.write s.rxb 1 d } := writeRxb_ok_iff.mpr ⟨by simp, rfl⟩
  rw [exec, execRx, unlessFaulted_live hf, hr, hs]
  change rxAwaitLength d s = _
  rw [rxAwaitLength, if_pos hd, acceptLength, hw, withOk_ok]
  rfl

/-- A body byte is captured, and the last one completes the frame (R75). -/
theorem execRx_body (hi : Invariant s) (hf : s.fault = false) (hs : s.rxState = .awaitBody) (d : Byte) :
    exec (.rx d) s =
      if s.bodyCount.toNat + 1 = lgeOf s then completeFrame (captured d s) else .next (captured d s) := by
  have hlive := hi.live hf
  obtain ⟨l, hl, -, hmax, hlt⟩ := exists_lge hlive hs
  have hbyte : rxbByte s 1 = .ok l := rxbByte_ok_iff.mpr ⟨by simp, hl⟩
  have hcap : captureByte d s = .ok (captured d s) :=
    captureByte_ok_iff.mpr ⟨by simp only [Params.bufBytes]; omega, rfl⟩
  have hlast : (captured d s).bodyCount = l ↔ s.bodyCount.toNat + 1 = lgeOf s := by
    rw [lgeOf_of_read hl, ← toNat_bodyCount_succ hlive hi.sound.params hs, BitVec.toNat_inj]
    rfl
  rw [exec, execRx, unlessFaulted_live hf, (hlive.started (by simp [hs])).1, hs]
  change rxAwaitBody d s = _
  rw [rxAwaitBody, hbyte, withOk_ok, hcap, withOk_ok]
  simp only [hlast]

/-- RX_CHAR with the last body byte completes the frame (R75). -/
theorem execRx_of_completedFrame (hi : Invariant s) (hf : s.fault = false) (h : completedFrame d s = some frame) :
    exec (.rx d) s = completeFrame (captured d s) := by
  obtain ⟨-, hs, -, -, hcount, -⟩ := completedFrame_spec hi hf h
  rw [execRx_body hi hf hs, if_pos hcount]

/-- A frame that fails its check is dropped (R80). -/
theorem execRx_of_invalidFrame (hi : Invariant s) (hf : s.fault = false) (h : completedFrame d s = some frame)
    (hv : ¬validFrame frame) : exec (.rx d) s = .next (afterFrame d .bccMismatch s) := by
  rw [execRx_of_completedFrame hi hf h]
  exact (completeFrame_of_frame (frameInRxb_of_completedFrame hi hf h)).1 hv

/-- A valid frame that is no mirror request gives its records (R83). -/
theorem execRx_of_validFrame (hi : Invariant s) (hf : s.fault = false) (h : completedFrame d s = some frame)
    (hv : validFrame frame) (hc : classify (adrOf frame) s.cfgNode ≠ .mirror) :
    exec (.rx d) s = .next (emitAll (frameRecords s frame) (afterFrame d .ok s)) := by
  have hframe := frameInRxb_of_completedFrame hi hf h
  have hchecked : FrameInRxb (checked (captured d s)) (lgeOf s) frame := frameInRxb_of_rxb_eq hframe rfl rfl
  rw [execRx_of_completedFrame hi hf h,
    completeFrame_of_runClass hframe hv (runClass_of_frame hchecked hf hc) hf rfl rfl, emitAll_emitAll]
  rfl

/-- A valid mirror request with an idle transmitter is scheduled (R85). -/
theorem execRx_of_mirrorFrame (hi : Invariant s) (hf : s.fault = false) (h : completedFrame d s = some frame)
    (hv : validFrame frame) (hc : classify (adrOf frame) s.cfgNode = .mirror) (hx : s.txState = .idle) :
    exec (.rx d) s =
      .next (emitAll (anyRecord s.cfgEn (telegramOf frame)) (mirrored (lgeOf s) frame (afterFrame d .ok s))) := by
  have hframe := frameInRxb_of_completedFrame hi hf h
  have hchecked : FrameInRxb (checked (captured d s)) (lgeOf s) frame := frameInRxb_of_rxb_eq hframe rfl rfl
  rw [execRx_of_completedFrame hi hf h,
    completeFrame_of_runClass hframe hv (runClass_mirror_of_frame hchecked hf hc hx) hf rfl rfl]
  rfl

end Sys2Proof.Machine
end

section
/-! A telegram at the port (30_encoding.md R55 to R58, R67, 41_checksum_dispatch.md R91): its bytes, and the run over their
words. -/

namespace Sys2Proof.Machine

open Sys2Proof.Safety Sys2Proof.Statements

variable {s t : State} {d adr : Byte} {payload : List Byte} {rest : List PortInput}

/-! The bytes of a telegram. -/

theorem decodeEvent_rxWord (d : Byte) : decodeEvent (rxWord d) = .rx d := by
  have hw : rxWord d = 0x1#4 ++ 0#20 ++ d := by revert d; decide
  rw [hw]
  exact (decodes_rxCode d).decodeEvent_eq

theorem xorBytes_eq_foldr (bs : List Byte) : xorBytes bs = bs.foldr (· ^^^ ·) 0 := by
  induction bs with
  | nil => rfl
  | cons b bs ih => rw [xorBytes, ih, List.foldr_cons]

/-- FRAME ends with the BCC that makes it valid, and BADFRAME does not (R58, R67). -/
theorem validFrame_frameHead_snoc (b : Byte) : validFrame (frameHead adr payload ++ [b]) ↔ frameBcc adr payload = b := by
  rw [validFrame_snoc, xorBytes_eq_foldr, frameBcc]

theorem not_validFrame_badFrameBytes : ¬validFrame (badFrameBytes adr payload) := by
  rw [badFrameBytes, validFrame_frameHead_snoc]
  generalize frameBcc adr payload = b
  revert b; decide

theorem telegramOf_frameBytes (adr : Byte) (payload : List Byte) :
    telegramOf (frameBytes adr payload) =
      { stx := 0x02, lge := BitVec.ofNat 8 (payload.length + 2), adr := adr, payload := payload,
        bcc := frameBcc adr payload } := by
  simp [telegramOf, frameBytes, frameHead]

/-- The response load of a running block, as its counter takes it (R92, R94). -/
theorem toCnt_respLoad (hi : Invariant s) (hf : s.fault = false) (hr : s.run = .running) :
    toCnt s.params (respLoad s) = (22 * s.params.tickHz + s.cfgBaud.toNat - 1) / s.cfgBaud.toNat + 1 := by
  have hlive := hi.live hf
  rw [toCnt_of_lt ((TxLive.of_live hlive).respLoad_lt hi.sound.params hr)]
  exact respLoadAt_eq s.params (hlive.loads hr).1

/-! The run over the words of a telegram. -/

theorem step_of_rxInputs (hp : s.port = rxInputs (d :: payload) ++ rest) :
    step s = exec (.rx d) (beginStep (rxInputs payload ++ rest) s) := by
  rw [step_of_port_word (w := rxWord d) (rest := rxInputs payload ++ rest) hp, decodeEvent_rxWord]

/-- The state after the body bytes `bs`, none of them the last, with the inputs `rest` left at the port (R75). -/
def bodyReceived (bs : List Byte) (rest : List PortInput) (s : State) : State :=
  { s with
    rxb := Memory.writeRange s.rxb (2 + s.bodyCount.toNat) bs
    bodyCount := s.bodyCount + BitVec.ofNat 8 bs.length
    port := rest }

theorem invariant_of_run {n : Nat} (hi : Invariant s) (h : core.run n s = .next t) : Invariant t := by
  obtain ⟨u, hu, hiu, -⟩ := run_invariant n hi
  cases h.symm.trans hu
  exact hiu

/-- Body bytes before the last one are captured one by one (R75). -/
theorem run_body (k : Nat) (bs : List Byte) (hi : Invariant s) (hf : s.fault = false) (hs : s.rxState = .awaitBody)
    (hout : s.out = []) (hlt : s.bodyCount.toNat + bs.length < lgeOf s) (hp : s.port = rxInputs bs ++ rest) :
    core.run (bs.length + k) s = core.run k (bodyReceived bs rest s) := by
  induction bs generalizing s with
  | nil =>
    have hport : s.port = rest := hp
    simp [bodyReceived, Memory.writeRange, ← hport]
  | cons d bs ih =>
    rw [List.length_cons] at hlt
    have hcount := toNat_bodyCount_succ (hi.live hf) hi.sound.params hs
    have hb := invariant_beginStep hi (rxInputs bs ++ rest)
    have hstep : step s = .next (captured d (beginStep (rxInputs bs ++ rest) s)) := by
      rw [step_of_rxInputs hp, execRx_body hb hf hs]
      exact if_neg (by change s.bodyCount.toNat + 1 ≠ lgeOf s; omega)
    have hlge : lgeOf (captured d (beginStep (rxInputs bs ++ rest) s)) = lgeOf s := lgeOf_captured ..
    have hrest := ih (step_invariant hi hstep) hf hs rfl (by change (s.bodyCount + 1).toNat + _ < _; omega) rfl
    rw [List.length_cons, Nat.add_right_comm, run_succ _ hstep, hrest]
    congr 1
    simp only [bodyReceived, captured, beginStep, hcount, Memory.writeRange, List.length_cons, hout, List.append_nil]
    simp only [Nat.add_assoc, BitVec.add_assoc, Nat.add_comm bs.length 1, BitVec.ofNat_add]
    rfl

/-- The state after STX and the LGE byte `l`, with the inputs `port` left at the port (R72, R73). -/
def lengthReceived (l : Byte) (port : List PortInput) (s : State) : State :=
  accepted l (beginStep port (stxStored (beginStep port s)))

/-- STX and a legal LGE take the receiver from AWAIT_START to AWAIT_BODY. -/
theorem run_stx_lge (k : Nat) {l : Byte} {bs : List Byte} (hf : s.fault = false) (hr : s.run = .running)
    (hs : s.rxState = .awaitStart) (hmin : Config.minLge ≤ l.toNat) (hmax : l.toNat ≤ s.params.maxLge)
    (hp : s.port = rxInputs (Config.stxValue :: l :: bs) ++ rest) :
    core.run (k + 2) s = core.run k (lengthReceived l (rxInputs bs ++ rest) s) := by
  have hstx : step s = .next (stxStored (beginStep (rxInputs (l :: bs) ++ rest) s)) :=
    (step_of_rxInputs hp).trans (execRx_stx hf hr hs)
  have hlge : step (stxStored (beginStep (rxInputs (l :: bs) ++ rest) s)) =
      .next (lengthReceived l (rxInputs bs ++ rest) s) :=
    (step_of_rxInputs rfl).trans (execRx_lge hf hr rfl ⟨hmin, hmax⟩)
  exact (run_succ _ hstx).trans (run_succ _ hlge)

/-- The state after all bytes of a telegram but its BCC, with the inputs `port` left at the port (R72, R73, R75). -/
def headReceived (adr : Byte) (payload : List Byte) (port : List PortInput) (s : State) : State :=
  bodyReceived (adr :: payload) port (lengthReceived (BitVec.ofNat 8 (payload.length + 2)) port s)

/-- The LGE byte of a telegram of legal length (R55). -/
theorem toNat_lgeByte {n : Nat} (h : n + 2 ≤ 255) : (BitVec.ofNat 8 (n + 2)).toNat = n + 2 := by
  rw [BitVec.toNat_ofNat, Nat.mod_eq_of_lt (by omega)]

theorem run_frameHead (k : Nat) (hi : Invariant s) (hf : s.fault = false) (hr : s.run = .running)
    (hs : s.rxState = .awaitStart) (hm : payload.length + 2 ≤ s.params.maxLge)
    (hp : s.port = rxInputs (frameHead adr payload) ++ rest) :
    core.run (payload.length + 3 + k) s = core.run k (headReceived adr payload rest s) := by
  obtain ⟨-, h255, -⟩ := hi.sound.params
  have hl := toNat_lgeByte (hm.trans h255)
  have hrun (n : Nat) := run_stx_lge n hf hr hs (by simp only [hl, Config.minLge]; omega) (hl.trans_le hm) hp
  have hlge : lgeOf (lengthReceived (BitVec.ofNat 8 (payload.length + 2)) (rxInputs (adr :: payload) ++ rest) s) =
      payload.length + 2 := (lgeOf_of_read (Memory.read_write_same ..)).trans hl
  have hlt : 0 + (adr :: payload).length <
      lgeOf (lengthReceived (BitVec.ofNat 8 (payload.length + 2)) (rxInputs (adr :: payload) ++ rest) s) := by
    rw [hlge, List.length_cons]
    omega
  have hbody := run_body k (adr :: payload) (invariant_of_run hi (hrun 0)) hf rfl rfl hlt rfl
  rw [show payload.length + 3 + k = (adr :: payload).length + k + 2 by rw [List.length_cons]; omega, hrun, hbody]
  rfl

/-- The BCC is what RXB misses of the frame. -/
theorem completedFrame_headReceived (hr : s.run = .running) (hm : payload.length + 2 ≤ 255) (b : Byte) :
    lgeOf (headReceived adr payload rest s) = payload.length + 2 ∧
      completedFrame b (headReceived adr payload rest s) = some (frameHead adr payload ++ [b]) := by
  have hread : Memory.readRange (headReceived adr payload rest s).rxb 0 (payload.length + 3) =
      some (frameHead adr payload) := Memory.readRange_writeRange_same (frameHead adr payload) s.rxb 0
  have hlge : lgeOf (headReceived adr payload rest s) = payload.length + 2 :=
    (lgeOf_of_read (Memory.read_of_readRange hread (i := 1) (by omega))).trans (toNat_lgeByte hm)
  have hcount : (headReceived adr payload rest s).bodyCount.toNat + 1 = payload.length + 2 := by
    change (0#8 + BitVec.ofNat 8 (payload.length + 1)).toNat + 1 = _
    rw [BitVec.zero_add, BitVec.toNat_ofNat, Nat.mod_eq_of_lt (by omega)]
  refine ⟨hlge, ?_⟩
  rw [completedFrame, if_pos ⟨hr, rfl, hcount.trans hlge.symm⟩, hlge, hread]
  rfl

theorem beginStep_of_silent (h : s.out = []) (port : List PortInput) : beginStep port s = { s with port := port } := by
  simp [beginStep, h]

/-- The run over the words of a telegram ends with RX_CHAR of its last byte, which completes the frame. -/
theorem run_telegram {b : Byte} (hi : Invariant s) (hf : s.fault = false) (hr : s.run = .running)
    (hs : s.rxState = .awaitStart) (hm : payload.length + 2 ≤ s.params.maxLge)
    (hp : s.port = rxInputs (frameHead adr payload ++ [b]) ++ rest) :
    Invariant (headReceived adr payload rest s) ∧
      ∀ t, exec (.rx b) (headReceived adr payload rest s) = .next t → core.run (payload.length + 4) s = .next t := by
  have hport : s.port = rxInputs (frameHead adr payload) ++ (rxInputs [b] ++ rest) := by
    rw [hp, rxInputs, List.map_append, List.append_assoc]
    rfl
  have hrun (k : Nat) := run_frameHead k hi hf hr hs hm hport
  have hbegin : beginStep rest (headReceived adr payload (rxInputs [b] ++ rest) s) = headReceived adr payload rest s :=
    beginStep_of_silent rfl rest
  refine ⟨hbegin ▸ invariant_beginStep (invariant_of_run hi (hrun 0)) rest, fun t ht => ?_⟩
  rw [← hbegin] at ht
  exact (hrun 1).trans (run_succ 0 ((step_of_rxInputs rfl).trans ht))

end Sys2Proof.Machine

namespace Sys2Proof.Proofs

open Sys2Proof.Machine Sys2Proof.Safety Sys2Proof.Statements

/-- Settles O24: the last byte completes a frame that fails its check. -/
theorem telegramWithFlippedBccIsDropped : Obligations.TelegramWithFlippedBccIsDropped := by
  intro s adr payload rest hi hf hr hs hm hp
  obtain ⟨hi', hrun⟩ := run_telegram hi hf hr hs hm hp
  obtain ⟨-, h255, -⟩ := hi.sound.params
  obtain ⟨-, hframe⟩ := completedFrame_headReceived (adr := adr) (rest := rest) hr (hm.trans h255)
    (frameBcc adr payload ^^^ 0xFF)
  refine ⟨_, hrun _ (execRx_of_invalidFrame hi' hf hframe not_validFrame_badFrameBytes), ?_⟩
  exact ⟨hf, rfl, rfl, rfl, List.append_nil _, rfl, rfl, rfl, rfl, rfl⟩

/-- Settles O23: the last byte completes a valid frame, which is dispatched or, for a mirror request, scheduled. -/
theorem telegramIsReceivedAndDispatchedOnce : Obligations.TelegramIsReceivedAndDispatchedOnce := by
  intro s adr payload rest hi hf hr hs hm hbusy hp
  obtain ⟨hi', hrun⟩ := run_telegram hi hf hr hs hm hp
  obtain ⟨-, h255, -⟩ := hi.sound.params
  obtain ⟨hlge, hframe⟩ := completedFrame_headReceived (adr := adr) (rest := rest) hr (hm.trans h255)
    (frameBcc adr payload)
  have hvalid : validFrame (frameHead adr payload ++ [frameBcc adr payload]) := (validFrame_frameHead_snoc _).mpr rfl
  rw [← telegramOf_frameBytes]
  by_cases hc : classify adr s.cfgNode = .mirror
  · have hx : s.txState = .idle := by
      by_contra hx
      exact hbusy ⟨hc, hx⟩
    have hlen : (frameBytes adr payload).length = payload.length + 4 := by simp [frameBytes, frameHead]
    have hcopy := Memory.readRange_writeRange_same (frameBytes adr payload) s.txb 0
    have hload := toCnt_respLoad hi hf hr
    refine ⟨_, hrun _ (execRx_of_mirrorFrame hi' hf hframe hvalid hc hx), ?_⟩
    refine ⟨hf, rfl, rfl, rfl, List.append_nil _, by rw [hc]; rfl, fun _ => ⟨rfl, ?_, hload, ?_⟩,
      fun h => absurd hc h⟩
    · change (BitVec.ofNat 9 (lgeOf (headReceived adr payload rest s) + 2)).toNat = _
      rw [hlge, BitVec.toNat_ofNat, Nat.mod_eq_of_lt (by omega)]
    · rwa [hlen] at hcopy
  · refine ⟨_, hrun _ (execRx_of_validFrame hi' hf hframe hvalid hc), ?_⟩
    exact ⟨hf, rfl, rfl, rfl, List.append_nil _, rfl, fun h => absurd h hc, fun _ => ⟨rfl, rfl, rfl, rfl⟩⟩

end Sys2Proof.Proofs
end

section
/-! The characters and line errors that add nothing to a frame (40_receive.md R70, R72, R74, R79), and what the invariant
says of the receiver's counters (10_state.md R38, R69). -/

namespace Sys2Proof.Machine

open Sys2Proof.Safety

variable {s : State} {d : Byte}

/-! The counters of the receiver. -/

theorem residArmed_eq_false (h : Live s) (hs : s.rxState ≠ .awaitBody) : s.residArmed = false :=
  Bool.eq_false_iff.mpr fun ha => hs (h.armed.mpr ha)

/-- In AWAIT_START the receiver is already at rest (R38, R69). -/
theorem returnToStart_eq_self (h : Live s) (hs : s.rxState = .awaitStart) : returnToStart s = s := by
  have hs' : s.rxState ≠ .awaitBody := by simp [hs]
  have hcount : s.bodyCount = 0 := h.noBody hs'
  have harmed : s.residArmed = false := residArmed_eq_false h hs'
  have hcnt : s.residCnt = 0 := h.residRests harmed
  cases s
  simp_all only [returnToStart]

/-- The residual load of a legal LGE in a running block, as its counter takes it (R92, R94). -/
theorem toCnt_residLoad (h : Live s) (hr : s.run = .running) {lge : Nat} (hl : lge ≤ s.params.maxLge) :
    toCnt s.params (residLoad s lge) =
      (33 * lge * s.params.tickHz + 2 * s.cfgBaud.toNat - 1) / (2 * s.cfgBaud.toNat) + 1 := by
  rw [toCnt_of_lt ((TxLive.of_live h).residLoad_lt hr hl)]
  exact residLoadAt_eq s.params (h.loads hr).1 lge

/-- The 8-bit comparison of R75 is that of the numbers: the body count does not wrap. -/
theorem bodyCount_succ_eq_iff (hi : Invariant s) (hf : s.fault = false) (hs : s.rxState = .awaitBody) {lge : Byte}
    (hl : Memory.read s.rxb 1 = some lge) : s.bodyCount + 1 = lge ↔ s.bodyCount.toNat + 1 = lgeOf s := by
  rw [lgeOf_of_read hl, ← toNat_bodyCount_succ (hi.live hf) hi.sound.params hs, BitVec.toNat_inj]

/-! RX_CHAR and RX_ERR where no byte is stored. -/

theorem execErr_stopped (k : LineErr) (h : s.run = .stopped) : execErr k s = .next s := by
  simp [execErr, unlessFaulted, h]

theorem execRx_notStx (hf : s.fault = false) (hr : s.run = .running) (hs : s.rxState = .awaitStart)
    (hd : d ≠ Config.stxValue) : exec (.rx d) s = .next s := by
  rw [exec, execRx, unlessFaulted_live hf, hr, hs]
  exact if_neg hd

theorem execRx_illegalLge (hf : s.fault = false) (hr : s.run = .running) (hs : s.rxState = .awaitLength)
    (hd : ¬(Config.minLge ≤ d.toNat ∧ d.toNat ≤ s.params.maxLge)) :
    exec (.rx d) s = .next (returnToStart (setLastResult .lenReject s)) := by
  rw [exec, execRx, unlessFaulted_live hf, hr, hs]
  exact if_neg hd

/-- RX_ERR in AWAIT_START leaves the receiver at rest (R79). -/
theorem execErr_awaitStart (k : LineErr) (hi : Invariant s) (hf : s.fault = false) (hs : s.rxState = .awaitStart) :
    execErr k s = .next s := by
  rw [execErr_live k hf, returnToStart_eq_self (hi.live hf) hs, if_pos hs, ite_self]

/-- RX_ERR aborts the frame in progress (R79). -/
theorem execErr_inFrame (k : LineErr) (hf : s.fault = false) (hr : s.run = .running) (hs : s.rxState ≠ .awaitStart) :
    execErr k s = .next (returnToStart (setLastResult .lineError s)) := by
  rw [execErr_live k hf, if_neg (by simp [hr]), if_neg hs]

end Sys2Proof.Machine

namespace Sys2Proof.Proofs

open Sys2Proof.Machine Sys2Proof.Safety

/-- Settles O14: the timer is armed in AWAIT_BODY alone, and the load of a legal LGE fits its counter. -/
theorem rxAcceptsALegalLength : Obligations.RxAcceptsALegalLength := by
  intro s d hi hf hs hmin hmax
  have hlive := hi.live hf
  have hr : s.run = .running := (hlive.started (by simp [hs])).1
  refine ⟨residArmed_eq_false hlive (by simp [hs]), ?_⟩
  rw [execRx_lge hf hr hs ⟨hmin, hmax⟩, accepted, toCnt_residLoad hlive hr hmax]

/-- Settles O16: the body count is below LGE, which is at most `MAX_LGE`. -/
theorem rxCapturesABodyByte : Obligations.RxCapturesABodyByte := by
  intro s d lge hi hf hs hl
  obtain ⟨-, hmax, hlt⟩ := (hi.live hf).body hs
  rw [lgeOf_of_read hl] at hmax hlt
  refine ⟨by omega, by simp only [Params.bufBytes]; omega, ?_⟩
  exact (execRx_body hi hf hs d).trans (if_congr (bodyCount_succ_eq_iff hi hf hs hl).symm rfl rfl)

/-- Settles O22: RX_ERR returns the receiver to AWAIT_START, where it already is unless a frame is in progress. -/
theorem lineErrorAbortsTheFrame : Obligations.LineErrorAbortsTheFrame := by
  refine ⟨(decodes_errCode .framing).decodeEvent_eq, (decodes_errCode .parity).decodeEvent_eq,
    (decodes_errCode .overrun).decodeEvent_eq, fun s k hi => ⟨fun h => ?_, execErr_inFrame k⟩⟩
  by_cases hf : s.fault = true
  · exact exec_faulted _ hf
  · rcases h with hf' | hr | hs
    · exact absurd hf' hf
    · exact execErr_stopped k hr
    · exact execErr_awaitStart k hi (Bool.eq_false_iff.mpr hf) hs

/-- Settles O12: both events test `run` before anything else they could write. -/
theorem lineEventsIgnoredWhileStopped : Obligations.LineEventsIgnoredWhileStopped :=
  fun _ d k hr => ⟨execRx_stopped d hr, execErr_stopped k hr⟩

/-- Settles O13: STX is stored, and no other byte begins a frame. -/
theorem rxInAwaitStart : Obligations.RxInAwaitStart := by
  intro s d hf hr hs
  refine ⟨?_, execRx_notStx hf hr hs⟩
  rintro rfl
  exact execRx_stx hf hr hs

/-- Settles O15: an LGE below 2 or above `MAX_LGE` is no legal one. -/
theorem rxRejectsAnIllegalLength : Obligations.RxRejectsAnIllegalLength := by
  intro s d hf hr hs hbad
  have hd : ¬(Config.minLge ≤ d.toNat ∧ d.toNat ≤ s.params.maxLge) := by
    simp only [Config.minLge]
    omega
  exact execRx_illegalLge hf hr hs hd

end Sys2Proof.Proofs
end

section
/-! The last byte of a frame and its class action (41_checksum_dispatch.md R80 to R91): the step as the ADR instruction
of the frame, then the `any` action and the return; and a frame with one byte replaced (R81). -/

namespace Sys2Proof.Machine

open Sys2Proof.Safety Sys2Proof.Statements

variable {s : State} {d adr : Byte} {lge : Nat} {frame : List Byte}

/-! The ADR instructions. -/

/-- The class action is the instruction that the ADR byte decodes to for this node (R82, R83). -/
theorem exec_decodeAdr (adr : Byte) (s : State) : exec (decodeAdr s.cfgNode adr) s = runClass adr s := by
  rw [decodeAdr]
  cases hc : classify adr s.cfgNode with
  | special => exact (runClass_special hc).symm
  | mirror => exact (runClass_mirror hc).symm
  | broadcast => exact (runClass_broadcast hc).symm
  | standard => exact (runClass_standard hc).symm
  | unaddressed => exact (runClass_unaddressed hc).symm

/-- The mirror action finds the transmitter busy (R85). -/
theorem execAdrMirror_busy (b5 : Bool) (node : Node) (hf : s.fault = false) (hx : s.txState ≠ .idle) :
    exec (.adrMirror b5 node) s = .next (raiseFault .txBusy s) := by
  rw [exec, execAdrMirror, unlessFaulted_live hf]
  exact mirrorFrame_next_iff.mpr (.inl ⟨hx, rfl⟩)

/-- The mirror action on the frame, with an idle transmitter (R85, R98). -/
theorem execAdrMirror_idle (b5 : Bool) (node : Node) (h : FrameInRxb s lge frame) (hf : s.fault = false)
    (hx : s.txState = .idle) : exec (.adrMirror b5 node) s = .next (mirrored lge frame s) := by
  obtain ⟨-, hbuf, hr, hl⟩ := h
  rw [exec, execAdrMirror, unlessFaulted_live hf]
  exact mirrorFrame_of_frame hx hbuf hr hl

/-- The class action of a mirror request that finds the transmitter busy (R85). -/
theorem runClass_mirror_busy (hf : s.fault = false) (hc : classify adr s.cfgNode = .mirror) (hx : s.txState ≠ .idle) :
    runClass adr s = .next (raiseFault .txBusy s) :=
  (runClass_mirror hc).trans (execAdrMirror_busy (adr.getLsbD 5) (adr.extractLsb' 0 5) hf hx)

/-! The last byte of a valid frame. -/

/-- The dispatcher, before the class action of the frame is known (R83). -/
theorem dispatchFrame_eq_seqThen (h : FrameInRxb s lge frame) :
    dispatchFrame s = seqThen (runClass (adrOf frame) s) actAny := by
  obtain ⟨hmin, hbuf, hr, -⟩ := h
  rw [dispatchFrame, rxbByte_of_frame hbuf hr (by omega), withOk_ok]
  rfl

/-- The last byte of a valid frame dispatches it and returns to AWAIT_START (R76, R83). -/
theorem execRx_eq_seqThen (hi : Invariant s) (hf : s.fault = false) (h : completedFrame d s = some frame)
    (hv : validFrame frame) :
    exec (.rx d) s =
      seqThen (seqThen (runClass (adrOf frame) (beforeDispatch d s)) actAny) (fun t => .next (returnToStart t)) := by
  have hframe := frameInRxb_of_completedFrame hi hf h
  have hbefore : FrameInRxb (beforeDispatch d s) (lgeOf s) frame := frameInRxb_of_rxb_eq hframe rfl rfl
  rw [execRx_of_completedFrame hi hf h, (completeFrame_of_frame hframe).2 hv, ← dispatchFrame_eq_seqThen hbefore]
  rfl

/-! A frame with one byte replaced (R81). -/

/-- Replacing a byte changes the XOR by the difference of the two. -/
theorem xorBytes_set {bs : List Byte} {j : Nat} (hj : j < bs.length) (b : Byte) :
    xorBytes (bs.set j b) = bs[j] ^^^ b ^^^ xorBytes bs := by
  induction bs generalizing j with
  | nil => cases hj
  | cons c bs ih =>
    cases j with
    | zero =>
      rw [List.set_cons_zero, List.getElem_cons_zero, xorBytes, xorBytes, BitVec.xor_comm c b, BitVec.xor_assoc b c,
        ← BitVec.xor_assoc c c, BitVec.xor_self, BitVec.zero_xor]
    | succ j =>
      rw [List.set_cons_succ, List.getElem_cons_succ, xorBytes, xorBytes, ih (Nat.lt_of_succ_lt_succ hj)]
      ac_rfl

theorem not_validFrame_set {j : Nat} {b : Byte} (hv : validFrame frame) (hj : j < frame.length)
    (hb : frame[j] ≠ b) : ¬validFrame (frame.set j b) := by
  intro h
  rw [validFrame, xorBytes_set hj, show xorBytes frame = 0#8 from hv, BitVec.xor_zero] at h
  exact hb (BitVec.xor_eq_zero_iff.mp h)

/-- A write inside a range replaces the byte there. -/
theorem Memory.readRange_write_inside {m : Memory} {a n j : Nat} {bs : List Byte} (v : Byte)
    (h : Memory.readRange m a n = some bs) (hj : j < n) :
    Memory.readRange (Memory.write m (a + j) v) a n = some (bs.set j v) := by
  induction n generalizing a j bs with
  | zero => cases hj
  | succ n ih =>
    obtain ⟨b, bs, hb, hr, rfl⟩ := Memory.readRange_succ_some.mp h
    rw [Memory.readRange_succ_some]
    cases j with
    | zero =>
      exact ⟨v, bs, Memory.read_write_same .., by rw [Memory.readRange_write_outside _ _ (by omega), hr], rfl⟩
    | succ j =>
      refine ⟨b, bs.set j v, by rw [Memory.read_write_ne _ _ (by omega), hb], ?_, rfl⟩
      rw [← Nat.add_assoc, Nat.add_right_comm]
      exact ih hr (Nat.lt_of_succ_lt_succ hj)

/-- One captured byte of the frame in progress is replaced (R81). -/
def corrupted (j : Nat) (b : Byte) (s : State) : State := { s with rxb := Memory.write s.rxb j b }

/-- The byte that completes a frame stands apart from the replaced one, so that the order of the two writes makes no
difference to a read. -/
theorem read_captured_corrupted {j : Nat} (hj : j ≠ 2 + s.bodyCount.toNat) (d b : Byte) (i : Nat) :
    Memory.read (captured d (corrupted j b s)).rxb i = Memory.read (corrupted j b (captured d s)).rxb i := by
  change Memory.read (Memory.write (Memory.write s.rxb j b) (2 + s.bodyCount.toNat) d) i =
    Memory.read (Memory.write (Memory.write s.rxb (2 + s.bodyCount.toNat) d) j b) i
  by_cases hi : 2 + s.bodyCount.toNat = i
  · subst hi
    rw [Memory.read_write_same, Memory.read_write_ne _ _ hj, Memory.read_write_same]
  · rw [Memory.read_write_ne _ _ hi]
    by_cases hji : j = i
    · subst hji
      rw [Memory.read_write_same, Memory.read_write_same]
    · rw [Memory.read_write_ne _ _ hji, Memory.read_write_ne _ _ hji, Memory.read_write_ne _ _ hi]

theorem frameInRxb_corrupted {j : Nat} (b : Byte) (h : FrameInRxb s lge frame) (hj : j < lge + 2) (h1 : j ≠ 1) :
    FrameInRxb (corrupted j b s) lge (frame.set j b) := by
  obtain ⟨hmin, hbuf, hr, hl⟩ := h
  have hset := Memory.readRange_write_inside b hr hj
  rw [Nat.zero_add] at hset
  refine ⟨hmin, hbuf, hset, ?_⟩
  rwa [List.getD_eq_getElem?_getD, List.getElem?_set_ne h1, ← List.getD_eq_getElem?_getD]

/-- RX_CHAR with the last body byte completes the frame (R75), whatever STX byte stands in RXB: the invariant is not
needed. -/
theorem execRx_lastByte {l : Byte} (hf : s.fault = false) (hr : s.run = .running) (hs : s.rxState = .awaitBody)
    (hl : Memory.read s.rxb 1 = some l) (hc : s.bodyCount + 1 = l) (hb : 2 + s.bodyCount.toNat < s.params.bufBytes)
    (d : Byte) : exec (.rx d) s = completeFrame (captured d s) := by
  have hbyte : rxbByte s 1 = .ok l := rxbByte_ok_iff.mpr ⟨by simp, hl⟩
  have hcap : captureByte d s = .ok (captured d s) := captureByte_ok_iff.mpr ⟨hb, rfl⟩
  rw [exec, execRx, unlessFaulted_live hf, hr, hs]
  change rxAwaitBody d s = _
  rw [rxAwaitBody, hbyte, withOk_ok, hcap, withOk_ok]
  exact if_pos hc

/-- With a byte other than LGE replaced, the same character still completes a frame, which has that byte replaced. -/
theorem execRx_corrupted (hi : Invariant s) (hf : s.fault = false) (h : completedFrame d s = some frame) {j : Nat}
    (hj : j ≤ lgeOf s) (h1 : j ≠ 1) (b : Byte) :
    exec (.rx d) (corrupted j b s) = completeFrame (captured d (corrupted j b s)) ∧
      FrameInRxb (captured d (corrupted j b s)) (lgeOf s) (frame.set j b) := by
  obtain ⟨hr, hs, -, hbuf, hcount, ⟨l, hl, -, hc, -⟩, -⟩ := completedFrame_spec hi hf h
  constructor
  · exact execRx_lastByte (s := corrupted j b s) hf hr hs ((Memory.read_write_ne _ _ h1).trans hl) hc
      (by change 2 + s.bodyCount.toNat < s.params.bufBytes; omega) d
  · obtain ⟨hmin, hbuf', hread, hlge⟩ :=
      frameInRxb_corrupted b (frameInRxb_of_completedFrame hi hf h) (by omega : j < lgeOf s + 2) h1
    refine ⟨hmin, hbuf', ?_, hlge⟩
    rw [← hread]
    exact Memory.readRange_congr fun i _ _ => read_captured_corrupted (by omega) d b i

/-- The bytes of the frame before its last are those captured already (R75). -/
theorem getElem_of_completedFrame (hi : Invariant s) (hf : s.fault = false) (h : completedFrame d s = some frame)
    {j : Nat} (hj : j ≤ lgeOf s) : ∃ hlt : j < frame.length, Memory.read s.rxb j = some frame[j] := by
  obtain ⟨-, -, -, -, hcount, -, hread⟩ := completedFrame_spec hi hf h
  have hlen := Memory.readRange_length hread
  have hbyte := Memory.read_of_readRange hread (i := j) (by omega)
  rw [Nat.zero_add, Memory.read_write_ne _ _ (by omega), List.getElem?_eq_getElem (by omega)] at hbyte
  exact ⟨by omega, hbyte⟩

/-- The frames that the characters would complete differ in their last byte only. -/
theorem exists_head_of_completedFrame (h : completedFrame d s = some frame) :
    ∃ head, frame = head ++ [d] ∧ ∀ d', completedFrame d' s = some (head ++ [d']) := by
  unfold completedFrame at h
  split at h
  · rename_i hc
    obtain ⟨head, hhead, rfl⟩ := Option.map_eq_some_iff.mp h
    refine ⟨head, rfl, fun d' => ?_⟩
    rw [completedFrame, if_pos hc, hhead]
    rfl
  · cases h

end Sys2Proof.Machine

namespace Sys2Proof.Proofs

open Sys2Proof.Machine Sys2Proof.Safety Sys2Proof.Statements

/-- Settles O17: the receive path compares the BCC as `validFrame` says. -/
theorem bccMismatchDropsTheFrame : Obligations.BccMismatchDropsTheFrame :=
  fun _ _ _ hi hf h hv => execRx_of_invalidFrame hi hf h hv

/-- Settles O18: the class action and the `any` action each add their record. -/
theorem validFrameIsDispatched : Obligations.ValidFrameIsDispatched :=
  fun _ _ _ hi hf h hv hc => execRx_of_validFrame hi hf h hv hc

/-- Settles O19: the response load of a running block fits its counter. -/
theorem validMirrorFrameIsScheduled : Obligations.ValidMirrorFrameIsScheduled := by
  intro s d frame hi hf h hv hc hx
  obtain ⟨hr, -⟩ := completedFrame_spec hi hf h
  rw [execRx_of_mirrorFrame hi hf h hv hc hx, ← toCnt_respLoad hi hf hr]
  rfl

/-- Settles O20: the fault of the class action ends the step before the `any` action and the return. -/
theorem mirrorWhileBusyFaults : Obligations.MirrorWhileBusyFaults := by
  rintro s d frame hi hf h hv ⟨hc, hx⟩
  have hclass : runClass (adrOf frame) (beforeDispatch d s) = .next (raiseFault .txBusy s) :=
    runClass_mirror_busy hf hc hx
  rw [execRx_eq_seqThen hi hf h hv, hclass, seqThen_faulted rfl, seqThen_faulted rfl]

/-- Settles O21: the ADR instruction that the byte decodes to is its class action. -/
theorem lastByteRunsTheDecodedAdrInstruction : Obligations.LastByteRunsTheDecodedAdrInstruction := by
  intro s d frame hi hf h hv
  have hclass : exec (decodeAdr s.cfgNode (adrOf frame)) (beforeDispatch d s) =
      runClass (adrOf frame) (beforeDispatch d s) := exec_decodeAdr (adrOf frame) (beforeDispatch d s)
  rw [hclass, execRx_eq_seqThen hi hf h hv]

/-- Settles O25: the XOR of the frame changes with the byte, so that it is no longer zero. -/
theorem oneCorruptedByteFailsTheCheck : Obligations.OneCorruptedByteFailsTheCheck := by
  intro s d frame hi hf h hv
  constructor
  · intro j b hj h1 hb
    obtain ⟨hlt, hbyte⟩ := getElem_of_completedFrame hi hf h hj
    have hinvalid : ¬validFrame (frame.set j b) := not_validFrame_set hv hlt fun he => hb (he ▸ hbyte)
    obtain ⟨hexec, hframe⟩ := execRx_corrupted hi hf h hj h1 b
    exact hexec.trans ((completeFrame_of_frame hframe).1 hinvalid)
  · intro d' hd
    obtain ⟨head, rfl, hhead⟩ := exists_head_of_completedFrame h
    rw [validFrame_snoc] at hv
    exact execRx_of_invalidFrame hi hf (hhead d') fun hv' => hd (((validFrame_snoc ..).mp hv').symm.trans hv)

/-- Settles O26: each callback class emits on its own port and slot, and UNADDRESSED has neither. -/
theorem callbackClassesEmitTheirRecord : Obligations.CallbackClassesEmitTheirRecord := by
  rintro s lge frame hf ⟨hmin, hbuf, hr, hl⟩
  have hemit := emitIfEnabled_of_frame hmin hbuf hr hl
  exact ⟨fun _ => (unlessFaulted_live hf _).trans (hemit 2 .spec),
    fun _ _ => (unlessFaulted_live hf _).trans (hemit 1 .bcast),
    fun _ => (unlessFaulted_live hf _).trans (hemit 0 .std),
    fun _ _ => unlessFaulted_live hf _⟩

/-- Settles O27: the load that fits the counter is loaded in full. -/
theorem mirrorActionCopiesAndSchedules : Obligations.MirrorActionCopiesAndSchedules := by
  intro s b5 node lge frame hf
  refine ⟨execAdrMirror_busy b5 node hf, fun hx hframe hB hfit => ?_⟩
  rw [← respLoadAt_eq s.params hB] at hfit ⊢
  rw [execAdrMirror_idle b5 node hframe hf hx, mirrored, respLoad, toCnt_of_lt hfit]

end Sys2Proof.Proofs
end

section
/-! The loads of the two timers (42_timers_transmit.md R92 to R94, 43_control.md R105): each is a quotient rounded up
and the guard tick, and its bounds are those of that quotient. -/

namespace Sys2Proof.Machine

variable {a b : Nat}

/-- `ceil_div` is Mathlib's ceiling division (R10). -/
theorem ceilDiv_eq_ceilDiv (h : 1 ≤ b) (a : Nat) : ceilDiv a b = a ⌈/⌉ b := ceilDiv_of_pos h a

theorem ceilDiv_le_iff (h : 1 ≤ b) {c : Nat} : ceilDiv a b ≤ c ↔ a ≤ b * c := by
  rw [ceilDiv_eq_ceilDiv h, ceilDiv_le_iff_le_mul h]

/-- The ceiling of a positive quotient is positive: a load is at least 2 (R92). -/
theorem ceilDiv_pos_of_pos (h : 1 ≤ b) (ha : 1 ≤ a) : 1 ≤ ceilDiv a b := by
  by_contra hlt
  have := (ceilDiv_le_iff (a := a) (c := 0) h).mp (by omega)
  omega

/-- With `L = ceil(a / b) + 1`, `L - 1` reaches the quotient and `L - 2` falls short of it (R93). -/
theorem guarded_ceilDiv_bounds (h : 1 ≤ b) (ha : 1 ≤ a) :
    a ≤ (ceilDiv a b + 1 - 1) * b ∧ (ceilDiv a b + 1 - 2) * b < a := by
  have hpos := ceilDiv_pos_of_pos h ha
  constructor
  · rw [Nat.add_sub_cancel, Nat.mul_comm]
    exact (ceilDiv_le_iff h).mp (le_refl _)
  · by_contra hle
    rw [not_lt, Nat.mul_comm] at hle
    have := (ceilDiv_le_iff h).mpr hle
    omega

theorem residLoadAt_eq_ceilDiv (P : Params) (B : Baud) (lge : Nat) :
    residLoadAt P B lge = ceilDiv (33 * lge * P.tickHz) (2 * B.toNat) + 1 := by
  rw [residLoadAt, show Config.residNum * lge * Config.charBits * P.tickHz = 33 * lge * P.tickHz by
    simp only [Config.residNum, Config.charBits]; ring]

theorem respLoadAt_eq_ceilDiv (P : Params) (B : Baud) :
    respLoadAt P B = ceilDiv (22 * P.tickHz) B.toNat + 1 := rfl

/-- The dividend of the residual load of a legal LGE is positive. -/
theorem residDividend_pos {P : Params} (hP : P.Wf) {lge : Nat} (hl : 2 ≤ lge) : 1 ≤ 33 * lge * P.tickHz := by
  obtain ⟨-, -, htick, -⟩ := hP
  have : 0 < 33 * lge * P.tickHz := by positivity
  exact this

theorem two_le_residLoadAt {P : Params} {B : Baud} (hP : P.Wf) (hB : B ≠ 0) {lge : Nat} (hl : 2 ≤ lge) :
    2 ≤ residLoadAt P B lge := by
  have hb := baud_pos hB
  rw [residLoadAt_eq_ceilDiv]
  exact Nat.succ_le_succ (ceilDiv_pos_of_pos (by omega) (residDividend_pos hP hl))

theorem two_le_respLoadAt {P : Params} {B : Baud} (hP : P.Wf) (hB : B ≠ 0) : 2 ≤ respLoadAt P B := by
  obtain ⟨-, -, htick, -⟩ := hP
  rw [respLoadAt_eq_ceilDiv]
  exact Nat.succ_le_succ (ceilDiv_pos_of_pos (baud_pos hB) (by omega))

end Sys2Proof.Machine

namespace Sys2Proof.Proofs

open Sys2Proof.Machine

/-- Settles O30: the loads grow with LGE, and the response load is at most that of LGE 2. -/
theorem everyLoadFitsWhereTheLargestDoes : Obligations.EveryLoadFitsWhereTheLargestDoes := by
  intro P B hP hB
  have hmono {l l' : Nat} (h : l ≤ l') : residLoadAt P B l ≤ residLoadAt P B l' := residLoadAt_mono P hB h
  have hresp := respLoadAt_le_residLoadAt_two P hB
  refine ⟨fun _ => two_le_residLoadAt hP hB, two_le_respLoadAt hP hB, fun _ _ => hmono, hresp, fun hfit => ?_⟩
  exact ⟨(hresp.trans (hmono hP.1)).trans hfit, fun _ hl => (hmono hl).trans hfit⟩

/-- Settles O31: both loads are a quotient rounded up and one guard tick. -/
theorem guardTickKeepsTheProtocolTimes : Obligations.GuardTickKeepsTheProtocolTimes := by
  intro P B lge hP hB hl
  have hb := baud_pos hB
  obtain ⟨-, -, htick, -⟩ := id hP
  obtain ⟨hresid, hresid'⟩ := guarded_ceilDiv_bounds (b := 2 * B.toNat) (by omega) (residDividend_pos hP hl)
  obtain ⟨hresp, hresp'⟩ := guarded_ceilDiv_bounds (a := 22 * P.tickHz) hb (by omega)
  rw [residLoadAt_eq_ceilDiv, respLoadAt_eq_ceilDiv]
  exact ⟨hresid, hresid', hresp, hresp'⟩

end Sys2Proof.Proofs
end

section
/-! TICK as an equation (42_timers_transmit.md R95 to R99): the two arms on a state that meets the invariant; TX_DONE
(R100); and the runs over TICKs (R96, R97, R103). -/

namespace Sys2Proof.Machine

open Sys2Proof.Safety Sys2Proof.Statements

variable {s t u : State} {d : Byte} {n lge : Nat} {reply frame : List Byte} {rest : List PortInput}

/-! The two arms. -/

/-- The residual arm has counted (R96). -/
def residTicked (s : State) : State :=
  { s with
    residCnt := if s.residArmed then s.residCnt - 1 else s.residCnt
    residArmed := if residExpires s then false else s.residArmed
    rxState := if residExpires s then .awaitStart else s.rxState
    bodyCount := if residExpires s then 0 else s.bodyCount
    lastResult := if residExpires s then .residTimeout else s.lastResult }

/-- The response arm has counted, with `reply` the bytes that wait in TXB (R97, R99). -/
def respTicked (reply : List Byte) (s : State) : State :=
  { s with
    respCnt := if s.txState = .responseWait then s.respCnt - 1 else s.respCnt
    txState := if respExpires s then .sending else s.txState
    out := s.out ++ if respExpires s then [.txStart reply] else [] }

theorem residTicked_of_disarmed (h : s.residArmed = false) : residTicked s = s := by
  cases s
  simp_all [residTicked, residExpires]

theorem residTicked_of_running (ha : s.residArmed = true) (h1 : s.residCnt ≠ 1) :
    residTicked s = { s with residCnt := s.residCnt - 1 } := by
  simp [residTicked, residExpires, ha, h1]

theorem residTicked_of_expiring (ha : s.residArmed = true) (h1 : s.residCnt = 1) :
    residTicked s = returnToStart (setLastResult .residTimeout s) := by
  simp [residTicked, residExpires, ha, h1, returnToStart, setLastResult]

theorem respTicked_of_notWaiting (reply : List Byte) (h : s.txState ≠ .responseWait) : respTicked reply s = s := by
  simp [respTicked, respExpires, h]

theorem respTicked_of_waiting (reply : List Byte) (hw : s.txState = .responseWait) (h1 : s.respCnt ≠ 1) :
    respTicked reply s = { s with respCnt := s.respCnt - 1 } := by
  simp [respTicked, respExpires, hw, h1]

theorem respTicked_of_expiring (reply : List Byte) (hw : s.txState = .responseWait) (h1 : s.respCnt = 1) :
    respTicked reply s = { s with respCnt := 0, txState := .sending, out := s.out ++ [.txStart reply] } := by
  simp [respTicked, respExpires, hw, h1]

/-- The residual arm, with a running counter of at least 1 (R94, R96). -/
theorem tickResid_eq (hi : Invariant s) (hf : s.fault = false) : tickResid s = residTicked s := by
  have hdec (ha : s.residArmed = true) : 1 ≤ s.residCnt ∧ decCnt s.params s.residCnt = s.residCnt - 1 :=
    have hpos := (hi.live hf).residRuns ha
    ⟨hpos, decCnt_of_pos hpos hi.sound.residCnt⟩
  rcases tickResid_cases s with ⟨ha, e⟩ | ⟨ha, h0, e⟩ | ⟨ha, h0, e⟩ <;> rw [e]
  · exact (residTicked_of_disarmed ha).symm
  · obtain ⟨hpos, hd⟩ := hdec ha
    rw [hd] at h0 ⊢
    exact (residTicked_of_running ha (by omega)).symm
  · obtain ⟨hpos, hd⟩ := hdec ha
    rw [hd] at h0
    exact (residTicked_of_expiring ha (by omega)).symm

/-- The response arm, with a running counter of at least 1 and its reply written (R94, R97, R99). -/
theorem tickResp_eq (hi : Invariant s) (hf : s.fault = false)
    (hr : s.txState = .responseWait → Memory.readRange s.txb 0 s.txLen.toNat = some reply) :
    tickResp s = .next (respTicked reply s) := by
  by_cases hw : s.txState = .responseWait
  · obtain ⟨-, hpos⟩ := (hi.live hf).waiting hw
    have hdec : decCnt s.params s.respCnt = s.respCnt - 1 := decCnt_of_pos hpos hi.sound.respCnt
    have hread := hr hw
    refine tickResp_next_iff.mpr (.inr ?_)
    rw [hdec]
    by_cases h1 : s.respCnt = 1
    · have h0 : s.respCnt - 1 = 0 := by omega
      rw [respTicked_of_expiring reply hw h1, h0]
      refine .inr ⟨hw, rfl, txStart_next_iff.mpr ⟨reply, txbRange_ok_iff.mpr ⟨?_, hread⟩, rfl⟩⟩
      exact Memory.written_inside hi.sound.txb hread
    · exact .inl ⟨hw, by omega, respTicked_of_waiting reply hw h1⟩
  · exact tickResp_next_iff.mpr (.inl ⟨hw, respTicked_of_notWaiting reply hw⟩)

/-- TICK runs both arms, whether or not one of them expires (R95). -/
theorem execTick_eq (hi : Invariant s) (hf : s.fault = false)
    (hr : s.txState = .responseWait → Memory.readRange s.txb 0 s.txLen.toNat = some reply) :
    exec .tick s = .next (respTicked reply (residTicked s)) := by
  have hi' := invariant_tickResid hi hf
  rw [exec, execTick_live hf]
  rw [tickResid_eq hi hf] at hi' ⊢
  exact tickResp_eq hi' hf hr

/-- In a stopped block neither timer runs (R38, R39). -/
theorem timers_rest_of_stopped (h : Live s) (hr : s.run = .stopped) :
    s.residArmed = false ∧ s.txState ≠ .responseWait := by
  refine ⟨residArmed_eq_false h fun hs => ?_, fun hw => ?_⟩
  · have hrun := (h.started (by simp [hs])).1
    simp [hr] at hrun
  · have hrun := (h.waiting hw).1
    simp [hr] at hrun

/-- Where neither timer runs, TICK changes nothing (R95). -/
theorem execTick_stopped (hi : Invariant s) (hf : s.fault = false) (hr : s.run = .stopped) :
    exec .tick s = .next s := by
  obtain ⟨ha, hw⟩ := timers_rest_of_stopped (hi.live hf) hr
  rw [execTick_eq (reply := []) hi hf fun h => absurd h hw, residTicked_of_disarmed ha, respTicked_of_notWaiting [] hw]

theorem decodeEvent_tick : decodeEvent 0x30000000 = .tick := (Decodes.tick rfl rfl).decodeEvent_eq

theorem decodeEvent_txdone : decodeEvent 0x40000000 = .txdone := (Decodes.txdone rfl rfl).decodeEvent_eq

/-! Runs over TICKs. -/

/-- The bytes of a waiting reply have been written (R39). -/
theorem exists_reply (h : Live s) :
    ∃ reply, s.txState = .responseWait → Memory.readRange s.txb 0 s.txLen.toNat = some reply := by
  by_cases hw : s.txState = .responseWait
  · obtain ⟨reply, hr⟩ := Option.isSome_iff_exists.mp (h.reply (by simp [hw])).2
    exact ⟨reply, fun _ => hr⟩
  · exact ⟨[], fun h => absurd h hw⟩

/-- The next input is a TICK, which is run on `beginStep` (R7, R95). -/
theorem step_of_tickInputs (hi : Invariant s) (hf : s.fault = false) (hp : s.port = tickInputs (n + 1) ++ rest)
    (hr : s.txState = .responseWait → Memory.readRange s.txb 0 s.txLen.toNat = some reply) :
    step s = .next (respTicked reply (residTicked (beginStep (tickInputs n ++ rest) s))) := by
  rw [step_of_port_word (w := 0x30000000) (rest := tickInputs n ++ rest) hp, decodeEvent_tick]
  exact execTick_eq (invariant_beginStep hi _) hf hr

/-- No telegram record was emitted from `s` to `t`. -/
def NoTelegram (s t : State) : Prop :=
  ∃ new, t.trace ++ t.out = s.trace ++ s.out ++ new ∧ ∀ o ∈ new, ¬IsTelegram o

theorem NoTelegram.refl (s : State) : NoTelegram s s := ⟨[], by simp, by simp⟩

theorem NoTelegram.trans (h : NoTelegram s t) (h' : NoTelegram t u) : NoTelegram s u := by
  obtain ⟨new, e, hn⟩ := h
  obtain ⟨new', e', hn'⟩ := h'
  refine ⟨new ++ new', by rw [e', e, List.append_assoc], fun o ho => ?_⟩
  exact (List.mem_append.mp ho).elim (hn o) (hn' o)

/-- The only record of a TICK is TX_START (R95, R99). -/
theorem noTelegram_tick (reply : List Byte) (port : List PortInput) (s : State) :
    NoTelegram s (respTicked reply (residTicked (beginStep port s))) := by
  refine ⟨if respExpires s then [.txStart reply] else [], rfl, fun o ho => ?_⟩
  split at ho
  · rintro ⟨_, _, rfl⟩
    simp at ho
  · simp at ho

/-- `t` is what `n` TICKs make of `s`: a frame in progress waits for its `resid_cnt`-th TICK and is aborted by it (R96),
a reply waits for its `resp_cnt`-th TICK and is started by it (R97), and no telegram is emitted. -/
structure Ticked (n : Nat) (s t : State) : Prop where
  live : t.fault = false
  rxb : t.rxb = s.rxb
  txb : t.txb = s.txb
  txLen : t.txLen = s.txLen
  silent : NoTelegram s t
  frameWaits : s.rxState = .awaitBody → n < s.residCnt →
    t.rxState = .awaitBody ∧ t.residCnt = s.residCnt - n ∧ t.bodyCount = s.bodyCount ∧ t.lastResult = s.lastResult
  frameAborted : s.rxState = .awaitBody → n = s.residCnt →
    t.rxState = .awaitStart ∧ t.lastResult = .residTimeout ∧ t.residArmed = false
  replyWaits : s.txState = .responseWait → n < s.respCnt →
    t.txState = .responseWait ∧ t.respCnt = s.respCnt - n ∧ t.trace ++ t.out = s.trace ++ s.out
  replyStarts : s.txState = .responseWait → n = s.respCnt →
    ∀ reply, Memory.readRange s.txb 0 s.txLen.toNat = some reply →
      t.txState = .sending ∧ t.out = [.txStart reply] ∧ t.trace = s.trace ++ s.out

/-- A running timer holds at least 1, so that no timer expires without a TICK (R94). -/
theorem Ticked.zero (h : Live s) (hf : s.fault = false) : Ticked 0 s s where
  live := hf
  rxb := rfl
  txb := rfl
  txLen := rfl
  silent := .refl s
  frameWaits hs _ := ⟨hs, rfl, rfl, rfl⟩
  frameAborted hs h0 := absurd (h.residRuns (h.armed.mp hs)) (by omega)
  replyWaits hw _ := ⟨hw, rfl, rfl⟩
  replyStarts hw h0 := absurd (h.waiting hw).2 (by omega)

theorem Ticked.one (port : List PortInput) (h : Live s) (hf : s.fault = false)
    (hr : s.txState = .responseWait → Memory.readRange s.txb 0 s.txLen.toNat = some reply) :
    Ticked 1 s (respTicked reply (residTicked (beginStep port s))) where
  live := hf
  rxb := rfl
  txb := rfl
  txLen := rfl
  silent := noTelegram_tick reply port s
  frameWaits hs hlt := by
    have hrun := residTicked_of_running (s := beginStep port s) (h.armed.mp hs) (show s.residCnt ≠ 1 by omega)
    rw [hrun]
    exact ⟨hs, rfl, rfl, rfl⟩
  frameAborted hs h1 := by
    have habort := residTicked_of_expiring (s := beginStep port s) (h.armed.mp hs) h1.symm
    rw [habort]
    exact ⟨rfl, rfl, rfl⟩
  replyWaits hw hlt := by
    have hwait := respTicked_of_waiting reply (s := residTicked (beginStep port s)) hw (show s.respCnt ≠ 1 by omega)
    rw [hwait]
    exact ⟨hw, rfl, List.append_nil _⟩
  replyStarts hw h1 reply' hr' := by
    have hstart := respTicked_of_expiring reply (s := residTicked (beginStep port s)) hw h1.symm
    obtain rfl : reply = reply' := Option.some.inj ((hr hw).symm.trans hr')
    rw [hstart]
    exact ⟨rfl, rfl, rfl⟩

/-- After `k` TICKs that have left a timer running, the TICKs that follow count on. -/
theorem Ticked.trans {k : Nat} (h : Ticked k s u) (h' : Ticked n u t) (hn : 1 ≤ n) : Ticked (k + n) s t where
  live := h'.live
  rxb := h'.rxb.trans h.rxb
  txb := h'.txb.trans h.txb
  txLen := h'.txLen.trans h.txLen
  silent := h.silent.trans h'.silent
  frameWaits hs hlt := by
    obtain ⟨hs', hcnt, hcount, hlast⟩ := h.frameWaits hs (by omega)
    obtain ⟨hst, hcnt', hcount', hlast'⟩ := h'.frameWaits hs' (by omega)
    exact ⟨hst, by omega, hcount'.trans hcount, hlast'.trans hlast⟩
  frameAborted hs he := by
    obtain ⟨hs', hcnt, -, -⟩ := h.frameWaits hs (by omega)
    exact h'.frameAborted hs' (by omega)
  replyWaits hw hlt := by
    obtain ⟨hw', hcnt, hrec⟩ := h.replyWaits hw (by omega)
    obtain ⟨hwt, hcnt', hrec'⟩ := h'.replyWaits hw' (by omega)
    exact ⟨hwt, by omega, hrec'.trans hrec⟩
  replyStarts hw he reply hr := by
    obtain ⟨hw', hcnt, hrec⟩ := h.replyWaits hw (by omega)
    obtain ⟨hst, hout, htrace⟩ := h'.replyStarts hw' (by omega) reply (by rwa [h.txb, h.txLen])
    exact ⟨hst, hout, htrace.trans hrec⟩

/-- What any number of TICKs does to a state that meets the invariant (R95 to R97, R103). -/
theorem run_tickInputs (n : Nat) (hi : Invariant s) (hf : s.fault = false) (hp : s.port = tickInputs n ++ rest) :
    ∃ t, core.run n s = .next t ∧ t.port = rest ∧ Ticked n s t := by
  induction n generalizing s with
  | zero => exact ⟨s, rfl, hp, .zero (hi.live hf) hf⟩
  | succ n ih =>
    obtain ⟨reply, hr⟩ := exists_reply (hi.live hf)
    have hstep := step_of_tickInputs hi hf hp hr
    have hone := Ticked.one (tickInputs n ++ rest) (hi.live hf) hf hr
    rw [run_succ n hstep]
    cases n with
    | zero => exact ⟨_, rfl, rfl, hone⟩
    | succ n =>
      obtain ⟨t, ht, hport, h⟩ := ih (step_invariant hi hstep) hone.live rfl
      exact ⟨t, ht, hport, Nat.add_comm 1 (n + 1) ▸ hone.trans h (by omega)⟩

/-! The run from the last byte of a mirror request. -/

/-- The bytes that wait in TXB after the mirror action are those of the frame (R85, R98). -/
theorem mirrored_reply (hr : frame.length = lge + 2) (h : lge ≤ 255) (s : State) :
    Memory.readRange (mirrored lge frame s).txb 0 (mirrored lge frame s).txLen.toNat = some frame := by
  have hlen : (mirrored lge frame s).txLen.toNat = frame.length := by
    change (BitVec.ofNat 9 (lge + 2)).toNat = _
    rw [BitVec.toNat_ofNat, Nat.mod_eq_of_lt (by omega), hr]
  rw [hlen]
  exact Memory.readRange_writeRange_same frame s.txb 0

end Sys2Proof.Machine

namespace Sys2Proof.Proofs

open Sys2Proof.Machine Sys2Proof.Safety Sys2Proof.Statements

/-- Settles O28: the response arm runs on what the residual arm leaves, which is the same transmitter. -/
theorem tickRunsBothArms : Obligations.TickRunsBothArms := by
  refine ⟨decodeEvent_tick, fun s reply hi hr => ⟨fun hf => execTick_eq hi hf hr, fun h => ?_⟩⟩
  by_cases hf : s.fault = true
  · exact exec_faulted .tick hf
  · exact execTick_stopped hi (Bool.eq_false_iff.mpr hf) (h.resolve_left hf)

/-- Settles O29: TX_DONE tests `tx_state` alone. -/
theorem txDoneEndsATransmission : Obligations.TxDoneEndsATransmission := by
  refine ⟨decodeEvent_txdone, fun s => ⟨fun hf hx => ?_, fun h => ?_⟩⟩
  · rw [exec, execTxdone_live hf, if_pos hx]
  · by_cases hf : s.fault = true
    · exact exec_faulted .txdone hf
    · rw [exec, execTxdone_live (Bool.eq_false_iff.mpr hf), if_neg (h.resolve_left hf)]

/-- Settles O32: TICKs count the residual timer of the frame down to its abort. -/
theorem stalledFrameIsAbortedAtTheLastTick : Obligations.StalledFrameIsAbortedAtTheLastTick := by
  intro s n rest hi hf hs _ hp
  obtain ⟨t, ht, hport, h⟩ := run_tickInputs n hi hf hp
  exact ⟨t, ht, h.live, hport, h.rxb, h.frameWaits hs, h.frameAborted hs, h.silent⟩

/-- Settles O33: the last byte loads the delay and emits the `any` record, and the TICKs count the delay down. -/
theorem mirrorReplyStartsAtTheLastTickOfTheDelay : Obligations.MirrorReplyStartsAtTheLastTickOfTheDelay := by
  intro s d frame n rest hi hf hfr hv hc hx _ hp
  obtain ⟨hrun, hs, -, -, -, -, hread⟩ := completedFrame_spec hi hf hfr
  obtain ⟨-, h255, -⟩ := hi.sound.params
  have hmax : lgeOf s ≤ 255 := ((hi.live hf).body hs).2.1.trans h255
  have hload : toCnt s.params (respLoad s) = respLoad s :=
    toCnt_of_lt ((TxLive.of_live (hi.live hf)).respLoad_lt hi.sound.params hrun)
  have hstep := step_of_port_word hp
  rw [decodeEvent_rxWord, execRx_of_mirrorFrame (invariant_beginStep hi _) hf hfr hv hc hx] at hstep
  obtain ⟨t, ht, hport, h⟩ := run_tickInputs n (step_invariant hi hstep) hf rfl
  refine ⟨t, (run_succ n hstep).trans ht, h.live, hport, fun hlt => ?_, fun he => ?_⟩
  · obtain ⟨hw, hcnt, hrec⟩ := h.replyWaits rfl (hlt.trans_eq hload.symm)
    exact ⟨hw, hcnt.trans (congrArg (· - n) hload), hrec⟩
  · exact h.replyStarts rfl (he.trans hload.symm) frame (mirrored_reply (Memory.readRange_length hread) hmax _)

end Sys2Proof.Proofs
end

section
/-! Reception and the transmitter do not touch each other (42_timers_transmit.md R101, R102): a waiting reply stays as it
is under every instruction that is not about it, and RX_CHAR gives the same receiver and records beside every
transmitter. -/

namespace Sys2Proof.Machine

open Sys2Proof.Safety

variable {i : Instr} {s s' t u : State} {d : Byte} {r r' : Result}

/-! A waiting reply. -/

/-- Only TICK, START and STOP write `tx_state` or `resp_cnt` while a reply waits (R101). -/
theorem Transition.reply_waits (h : Transition s i t) (hw : s.txState = .responseWait) (htick : i ≠ .tick)
    (hstop : i ≠ .stop) (hstart : ∀ nd en, i ≠ .start nd en) : t.txState = s.txState ∧ t.respCnt = s.respCnt := by
  cases h with
  | telegrams ha =>
    obtain ⟨_, rfl, -⟩ := ha
    exact ⟨rfl, rfl⟩
  | storeStx => exact ⟨rfl, rfl⟩
  | acceptLge => exact ⟨rfl, rfl⟩
  | rejectLge => exact ⟨rfl, rfl⟩
  | storeBody => exact ⟨rfl, rfl⟩
  | mismatch => exact ⟨rfl, rfl⟩
  | dispatch _ ha =>
    obtain ⟨_, rfl, -⟩ := ha
    exact ⟨rfl, rfl⟩
  | mirrorFrame _ hx => simp [hw] at hx
  | idleError => exact ⟨rfl, rfl⟩
  | lineError => exact ⟨rfl, rfl⟩
  | tick => exact absurd rfl htick
  | txdone hx => simp [hw] at hx
  | baud => exact ⟨rfl, rfl⟩
  | start => exact absurd rfl (hstart _ _)
  | stop => exact absurd rfl hstop
  | adrMirror hx => simp [hw] at hx

/-! States that differ in the transmitter alone. -/

/-- `s` with another transmitter: `tx_state`, TXB, `tx_len` and `resp_cnt`. -/
def State.withTransmitter (tx : TxState) (m : Memory) (len : BitVec 9) (cnt : Nat) (s : State) : State :=
  { s with txState := tx, txb := m, txLen := len, respCnt := cnt }

/-- The two states differ in the transmitter alone. -/
def SameReception (s s' : State) : Prop := ∃ tx m len cnt, s' = s.withTransmitter tx m len cnt

theorem SameReception.symm (h : SameReception s s') : SameReception s' s := by
  obtain ⟨_, _, _, _, rfl⟩ := h
  exact ⟨s.txState, s.txb, s.txLen, s.respCnt, rfl⟩

theorem SameReception.trans (h : SameReception s t) (h' : SameReception t u) : SameReception s u := by
  obtain ⟨_, _, _, _, rfl⟩ := h
  obtain ⟨tx, m, len, cnt, rfl⟩ := h'
  exact ⟨tx, m, len, cnt, rfl⟩

/-- What is read without the transmitter is the same in both states. -/
theorem SameReception.read_eq {α : Type} (h : SameReception s s') (f : State → α)
    (hf : ∀ tx m len cnt, f (s.withTransmitter tx m len cnt) = f s) : f s' = f s := by
  obtain ⟨tx, m, len, cnt, rfl⟩ := h
  exact hf tx m len cnt

/-- An update beside the transmitter keeps the two states alike. -/
theorem SameReception.map (h : SameReception s s') (f : State → State)
    (hf : ∀ tx m len cnt, f (s.withTransmitter tx m len cnt) = (f s).withTransmitter tx m len cnt) :
    SameReception (f s) (f s') := by
  obtain ⟨tx, m, len, cnt, rfl⟩ := h
  exact ⟨tx, m, len, cnt, hf tx m len cnt⟩

/-- The mirror action writes the transmitter alone (R85). -/
theorem Mirrored.sameReception (h : Mirrored s t) : SameReception s t := by
  obtain ⟨_, _, -, -, -, rfl⟩ := h
  exact ⟨_, _, _, _, rfl⟩

/-- Where both results are next states without a fault, these differ in the transmitter alone. -/
def SameUnlessFault (r r' : Result) : Prop :=
  ∀ t t', r = .next t → r' = .next t' → t.fault = false → t'.fault = false → SameReception t t'

theorem SameUnlessFault.next (h : SameReception s s') : SameUnlessFault (.next s) (.next s') := by
  rintro _ _ ⟨⟩ ⟨⟩ _ _
  exact h

/-- Both read the same value and go on with it. -/
theorem SameUnlessFault.of_withOk {α : Type} {v v' : Except Fault α} (hv : v' = v) {f f' : α → Result}
    (h : ∀ a, SameUnlessFault (f a) (f' a)) : SameUnlessFault (withOk v f) (withOk v' f') := by
  intro t t' ht ht'
  obtain ⟨a, ha, hf⟩ := withOk_next_iff.mp ht
  obtain ⟨a', ha', hf'⟩ := withOk_next_iff.mp (hv ▸ ht')
  cases ha.symm.trans ha'
  exact h a t t' hf hf'

/-- Both go on with the state that a write has answered. -/
theorem SameUnlessFault.of_withOk_state {v v' : Except Fault State} {f f' : State → Result}
    (hv : ∀ u u', v = .ok u → v' = .ok u' → SameReception u u')
    (h : ∀ u u', SameReception u u' → SameUnlessFault (f u) (f' u')) :
    SameUnlessFault (withOk v f) (withOk v' f') := by
  intro t t' ht ht'
  obtain ⟨u, hu, hf⟩ := withOk_next_iff.mp ht
  obtain ⟨u', hu', hf'⟩ := withOk_next_iff.mp ht'
  exact h u u' (hv u u' hu hu') t t' hf hf'

theorem SameUnlessFault.of_seqThen {f f' : State → Result} (hr : SameUnlessFault r r')
    (h : ∀ u u', SameReception u u' → SameUnlessFault (f u) (f' u')) :
    SameUnlessFault (seqThen r f) (seqThen r' f') := by
  intro t t' ht ht' hft hft'
  obtain ⟨u, hu, ⟨hfu, rfl⟩ | ⟨hfu, hf⟩⟩ := seqThen_next_iff.mp ht
  · simp [hft] at hfu
  · obtain ⟨u', hu', ⟨hfu', rfl⟩ | ⟨hfu', hf'⟩⟩ := seqThen_next_iff.mp ht'
    · simp [hft'] at hfu'
    · exact h u u' (hr u u' hu hu' hfu hfu') t t' hf hf' hft hft'

theorem SameUnlessFault.of_unlessFaulted {f : State → Result} (h : SameReception s s')
    (hf : SameUnlessFault (f s) (f s')) : SameUnlessFault (unlessFaulted s f) (unlessFaulted s' f) := by
  have hfault : s'.fault = s.fault := h.read_eq State.fault fun _ _ _ _ => rfl
  cases hs : s.fault with
  | true =>
    rw [unlessFaulted_faulted hs, unlessFaulted_faulted (hfault.trans hs)]
    exact .next h
  | false =>
    rw [unlessFaulted_live hs, unlessFaulted_live (hfault.trans hs)]
    exact hf

theorem SameReception.rxbByte_eq (h : SameReception s s') (j : Nat) : rxbByte s' j = rxbByte s j :=
  h.read_eq (rxbByte · j) fun _ _ _ _ => rfl

/-! The dispatcher. -/

theorem emitIfEnabled_same (slot : Nat) (port : OutPort) (h : SameReception s s') :
    SameUnlessFault (emitIfEnabled slot port s) (emitIfEnabled slot port s') := by
  have hen : s'.cfgEn = s.cfgEn := h.read_eq State.cfgEn fun _ _ _ _ => rfl
  refine .of_withOk (h.rxbByte_eq 1) fun lge =>
    .of_withOk (h.read_eq (telOf · lge.toNat) fun _ _ _ _ => rfl) fun tel => ?_
  rw [hen]
  split
  · exact .next (h.map (emit (.tel port tel)) fun _ _ _ _ => rfl)
  · exact .next h

/-- The mirror action faults or writes the transmitter alone (R85). -/
theorem mirrorFrame_same (h : SameReception s s') : SameUnlessFault (mirrorFrame s) (mirrorFrame s') := by
  have key {s t : State} (ht : mirrorFrame s = .next t) (hf : t.fault = false) : SameReception s t := by
    rcases mirrorFrame_cases ht with ⟨-, rfl⟩ | ⟨-, hm⟩
    · simp at hf
    · exact hm.sameReception
  intro t t' ht ht' hf hf'
  exact (key ht hf).symm.trans (h.trans (key ht' hf'))

theorem runClass_same (adr : Byte) (h : SameReception s s') : SameUnlessFault (runClass adr s) (runClass adr s') := by
  have hnode : s'.cfgNode = s.cfgNode := h.read_eq State.cfgNode fun _ _ _ _ => rfl
  rw [runClass, runClass, hnode]
  cases classify adr s.cfgNode with
  | special => exact .of_unlessFaulted h (emitIfEnabled_same 2 .spec h)
  | mirror => exact .of_unlessFaulted h (mirrorFrame_same h)
  | broadcast => exact .of_unlessFaulted h (emitIfEnabled_same 1 .bcast h)
  | standard => exact .of_unlessFaulted h (emitIfEnabled_same 0 .std h)
  | unaddressed => exact .of_unlessFaulted h (.next h)

theorem dispatchFrame_same (h : SameReception s s') : SameUnlessFault (dispatchFrame s) (dispatchFrame s') :=
  .of_withOk (h.rxbByte_eq 2) fun adr => .of_seqThen (runClass_same adr h) fun _ _ => emitIfEnabled_same 3 .any

/-! RX_CHAR. -/

/-- Both frames have the same BCC check, and a valid one is dispatched in both (R76). -/
theorem completeFrame_same (h : SameReception s s') : SameUnlessFault (completeFrame s) (completeFrame s') := by
  have hcheck (n : Nat) := h.read_eq (fun s => bccMatches { s with residArmed := false, residCnt := 0 } n)
    fun _ _ _ _ => rfl
  refine .of_withOk (h.rxbByte_eq 1) fun lge => .of_withOk (hcheck lge.toNat) fun ok => ?_
  cases ok with
  | false => exact .next (h.map (fun s => returnToStart (setLastResult .bccMismatch s)) fun _ _ _ _ => rfl)
  | true =>
    exact .of_seqThen (dispatchFrame_same (h.map checked fun _ _ _ _ => rfl)) fun _ _ hu =>
      .next (hu.map returnToStart fun _ _ _ _ => rfl)

theorem writeRxb_same (h : SameReception s s') (j : Nat) (d : Byte) (u u' : State) (hu : writeRxb s j d = .ok u)
    (hu' : writeRxb s' j d = .ok u') : SameReception u u' := by
  obtain ⟨-, rfl⟩ := writeRxb_ok_iff.mp hu
  obtain ⟨-, rfl⟩ := writeRxb_ok_iff.mp hu'
  exact h.map (fun s => { s with rxb := Memory.write s.rxb j d }) fun _ _ _ _ => rfl

theorem captureByte_same (h : SameReception s s') (d : Byte) (u u' : State) (hu : captureByte d s = .ok u)
    (hu' : captureByte d s' = .ok u') : SameReception u u' := by
  obtain ⟨-, rfl⟩ := captureByte_ok_iff.mp hu
  obtain ⟨-, rfl⟩ := captureByte_ok_iff.mp hu'
  exact h.map (captured d) fun _ _ _ _ => rfl

theorem rxAwaitStart_same (d : Byte) (h : SameReception s s') :
    SameUnlessFault (rxAwaitStart d s) (rxAwaitStart d s') := by
  rw [rxAwaitStart, rxAwaitStart]
  split
  · exact .of_withOk_state (writeRxb_same h 0 d) fun _ _ hu =>
      .next (hu.map (fun s => { s with rxState := .awaitLength }) fun _ _ _ _ => rfl)
  · exact .next h

theorem acceptLength_same (d : Byte) (h : SameReception s s') :
    SameUnlessFault (acceptLength d s) (acceptLength d s') := by
  refine .of_withOk_state (writeRxb_same h 1 d) fun u u' hu => .next ?_
  obtain ⟨tx, m, len, cnt, rfl⟩ := hu
  exact ⟨tx, m, len, cnt, rfl⟩

theorem rxAwaitLength_same (d : Byte) (h : SameReception s s') :
    SameUnlessFault (rxAwaitLength d s) (rxAwaitLength d s') := by
  have hparams : s'.params = s.params := h.read_eq State.params fun _ _ _ _ => rfl
  rw [rxAwaitLength, rxAwaitLength, hparams]
  split
  · exact acceptLength_same d h
  · exact .next (h.map (fun s => returnToStart (setLastResult .lenReject s)) fun _ _ _ _ => rfl)

theorem rxAwaitBody_same (d : Byte) (h : SameReception s s') :
    SameUnlessFault (rxAwaitBody d s) (rxAwaitBody d s') := by
  refine .of_withOk (h.rxbByte_eq 1) fun lge => .of_withOk_state (captureByte_same h d) fun u u' hu => ?_
  have hcount : u'.bodyCount = u.bodyCount := hu.read_eq State.bodyCount fun _ _ _ _ => rfl
  rw [hcount]
  split
  · exact completeFrame_same hu
  · exact .next hu

/-- RX_CHAR does not look at the transmitter, but for the check of the mirror action (R102). -/
theorem execRx_same (d : Byte) (h : SameReception s s') : SameUnlessFault (execRx d s) (execRx d s') := by
  have hrun : s'.run = s.run := h.read_eq State.run fun _ _ _ _ => rfl
  have hrx : s'.rxState = s.rxState := h.read_eq State.rxState fun _ _ _ _ => rfl
  refine .of_unlessFaulted h ?_
  rw [hrun, hrx]
  cases s.run with
  | stopped => exact .next h
  | running =>
    cases s.rxState with
    | awaitStart => exact rxAwaitStart_same d h
    | awaitLength => exact rxAwaitLength_same d h
    | awaitBody => exact rxAwaitBody_same d h

end Sys2Proof.Machine

namespace Sys2Proof.Proofs

open Sys2Proof.Machine

/-- Settles O34: no transition of these instructions writes `tx_state` or `resp_cnt` of a waiting reply, and TXB is
written with an idle transmitter alone. -/
theorem responseDelayIsFixed : Obligations.ResponseDelayIsFixed := by
  intro i s t h ht hw htick hstop hstart
  obtain ⟨-, htr⟩ := transition_of_exec h ht
  obtain ⟨hx, hcnt⟩ := htr.reply_waits hw htick hstop hstart
  rcases htr.txb_cases with ⟨hlen, htxb⟩ | ⟨hidle, -⟩
  · exact ⟨hx.trans hw, hcnt, hlen, fun a => by rw [htxb]⟩
  · simp [hw] at hidle

/-- Settles O36: both results differ in the transmitter alone. -/
theorem receptionIgnoresTheTransmitter : Obligations.ReceptionIgnoresTheTransmitter := by
  rintro s t s' t' d tx m len cnt rfl h h' ht ht'
  obtain ⟨_, _, _, _, rfl⟩ := execRx_same d ⟨tx, m, len, cnt, rfl⟩ t t' h h' ht ht'
  exact ⟨rfl, rfl, rfl, rfl, rfl, rfl, rfl⟩

end Sys2Proof.Proofs
end

section
/-! The control events SET_BAUD, START and STOP and the illegal words as equations (43_control.md R104 to R107). -/

namespace Sys2Proof.Machine

open Sys2Proof.Safety

variable {s : State}

/-! STOP. -/

/-- A stopped block has no frame in progress (R38). -/
theorem rxState_of_stopped (h : Live s) (hr : s.run = .stopped) : s.rxState = .awaitStart := by
  by_contra hs
  obtain ⟨hrun, -⟩ := h.started hs
  simp [hr] at hrun

theorem cancelReply_eq_self (hw : s.txState ≠ .responseWait) : cancelReply s = s := by
  rw [cancelReply, if_neg hw, if_neg hw]

/-- STOP finds a stopped block as it would leave it (R106). -/
theorem stopActions_eq_self (h : Live s) (hr : s.run = .stopped) : stopActions s = s := by
  obtain ⟨-, hw⟩ := timers_rest_of_stopped h hr
  have hrun : { s with run := .stopped } = s := by rw [← hr]
  rw [stopActions, hrun, returnToStart_eq_self h (rxState_of_stopped h hr), cancelReply_eq_self hw]

/-! START. -/

/-- The check of R105 with the constants of R8 put in. -/
theorem loadTooLarge_iff (P : Params) {B : Baud} (hB : B ≠ 0) :
    loadTooLarge P B = true ↔
      2 ^ P.cntW - 1 < (33 * P.maxLge * P.tickHz + 2 * B.toNat - 1) / (2 * B.toNat) + 1 := by
  rw [loadTooLarge, decide_eq_true_iff, residLoadAt_eq P hB]

/-- A fault overwrites everything that the STOP actions before it have written (R110). -/
theorem raiseFault_stopActions (c : FaultCause) (s : State) : raiseFault c (stopActions s) = raiseFault c s := rfl

/-- START in a block without a fault: the checks of R105 read nothing that the STOP actions write. -/
theorem execStart_eq (nd : Node) (en : Enables) (hf : s.fault = false) :
    execStart nd en s =
      .next (if s.baudStage = 0 ∨ loadTooLarge s.params s.baudStage = true then raiseFault .configInvalid s
        else latched nd en (if s.run = .running then stopActions s else s)) := by
  rw [execStart_live nd en hf]
  split
  · rw [latchConfig_eq, stopActions_baudStage, stopActions_params, raiseFault_stopActions]
  · exact latchConfig_eq nd en s

theorem execStart_refused (nd : Node) (en : Enables) (hf : s.fault = false)
    (hbad : s.baudStage = 0 ∨ loadTooLarge s.params s.baudStage = true) :
    execStart nd en s = .next (raiseFault .configInvalid s) := by
  rw [execStart_eq nd en hf, if_pos hbad]

theorem execStart_latched (nd : Node) (en : Enables) (hf : s.fault = false)
    (hok : ¬(s.baudStage = 0 ∨ loadTooLarge s.params s.baudStage = true)) :
    execStart nd en s = .next (latched nd en (if s.run = .running then stopActions s else s)) := by
  rw [execStart_eq nd en hf, if_neg hok]

end Sys2Proof.Machine

namespace Sys2Proof.Proofs

open Sys2Proof.Machine Sys2Proof.Safety

/-- Settles O38: START latches the staged baud where both checks pass, in a running block after the STOP actions. -/
theorem startLatchesTheConfiguration : Obligations.StartLatchesTheConfiguration := by
  intro s nd en
  refine ⟨(decodes_startCode nd en).decodeEvent_eq, exec_faulted _,
    fun hf h0 => execStart_refused nd en hf (.inl h0),
    fun hf hB hlarge => execStart_refused nd en hf (.inr ((loadTooLarge_iff _ hB).mpr hlarge)), fun hf hB hfit => ?_⟩
  have hok : ¬(s.baudStage = 0 ∨ loadTooLarge s.params s.baudStage = true) :=
    not_or.mpr ⟨hB, fun hlarge => not_lt.mpr hfit ((loadTooLarge_iff _ hB).mp hlarge)⟩
  have hexec := execStart_latched nd en hf hok
  constructor
  · intro hr
    rw [if_neg (by simp [hr])] at hexec
    exact ⟨fun hi => rxState_of_stopped (hi.live hf) hr, hexec⟩
  · intro hr
    rw [if_pos hr] at hexec
    exact hexec

/-- Settles O37: the two fields of the code are read back, and the event writes one element. -/
theorem setBaudStagesTheBaud : Obligations.SetBaudStagesTheBaud :=
  fun _ b => ⟨(decodes_baudCode b).decodeEvent_eq, execBaud_live b, exec_faulted _⟩

/-- Settles O39: the STOP actions are those of R106, and a stopped block is already at rest. -/
theorem stopQuiescesTheBlock : Obligations.StopQuiescesTheBlock := by
  refine ⟨(Decodes.stop rfl rfl).decodeEvent_eq, fun s => ⟨execStop_live, fun hi h => ?_⟩⟩
  cases hf : s.fault with
  | true => exact exec_faulted _ hf
  | false =>
    have hr : s.run = .stopped := h.resolve_left (by simp [hf])
    calc exec .stop s = .next (stopActions s) := execStop_live hf
      _ = .next s := by rw [stopActions_eq_self (hi.live hf) hr]

/-- Settles O40: both words have a reserved opcode, and the meaning of ILLEGAL does not look at its word. -/
theorem illegalWordFaults : Obligations.IllegalWordFaults :=
  ⟨decodeEvent_eq_illegal_iff.mpr (refused_reserved (.inl rfl)),
    decodeEvent_eq_illegal_iff.mpr (refused_reserved (.inr (by decide))),
    fun _ w => ⟨execIllegal_live w, exec_faulted _⟩⟩

end Sys2Proof.Proofs
end

section
/-! Faults (60_exceptions.md R109, R110): which instructions raise one and when, and the faulted state, which every event
leaves as it is and `rst` alone ends. -/

namespace Sys2Proof.Machine

open Sys2Proof.Safety

variable {i : Instr} {s t u : State} {d : Byte}

/-- The fault record of STATUS as one field: the cause above the fault bit (R29). -/
theorem statusWord_faultRecord (s : State) :
    (statusWord s).extractLsb' 8 3 = s.faultCause.code ++ BitVec.ofBool s.fault := by
  rw [← statusWord_faultCause, ← statusWord_fault, BitVec.extractLsb'_append_extractLsb'_eq_extractLsb' (by decide)]

/-! R109, from the conditions to the fault. -/

theorem exec_of_raises {c : FaultCause} (hi : Invariant s) (hf : s.fault = false) (h : Raises i s c) :
    exec i s = .next (raiseFault c s) := by
  cases i with
  | rx d =>
    obtain ⟨rfl, frame, hfr, hv, hbusy⟩ := h
    exact Proofs.mirrorWhileBusyFaults s d frame hi hf hfr hv hbusy
  | start nd en =>
    obtain ⟨rfl, hbad⟩ := h
    exact execStart_refused nd en hf hbad
  | illegal w =>
    obtain rfl : c = .illegalEvent := h
    exact execIllegal_live w hf
  | adrMirror b5 node =>
    obtain ⟨rfl, hx⟩ := h
    exact execAdrMirror_busy b5 node hf hx
  | err | tick | txdone | baud | stop | adrSpecial | adrBroadcast | adrStandard | adrUnaddressed => exact h.elim

/-! R109, from the fault to the conditions. -/

/-- An instruction has one next state, so a change of the fault bit shows in every equation for it. -/
theorem fault_ne_of_exec (h : exec i s = .next t) (hne : t.fault ≠ s.fault) (hu : exec i s = .next u) :
    u.fault ≠ s.fault := by
  cases h.symm.trans hu
  exact hne

/-- A class action that emits its record keeps the fault bit (R84, R86, R87). -/
theorem fault_of_emitIfEnabled {slot : Nat} {port : OutPort} (hf : s.fault = false)
    (h : unlessFaulted s (emitIfEnabled slot port) = .next t) : t.fault = s.fault := by
  rw [unlessFaulted_live hf] at h
  obtain ⟨_, rfl, -⟩ := emitIfEnabled_adds h
  rfl

/-- RX_CHAR raises a fault only at the last byte of a frame. -/
theorem exists_completedFrame_of_fault (hi : Invariant s) (hf : s.fault = false) (h : exec (.rx d) s = .next t)
    (hne : t.fault ≠ s.fault) : ∃ frame, completedFrame d s = some frame := by
  cases hr : s.run with
  | stopped => exact (fault_ne_of_exec h hne (execRx_stopped d hr) rfl).elim
  | running =>
    rcases execRx_cases hf hr h with ⟨-, -, rfl⟩ | ⟨-, -, rfl⟩ | ⟨-, -, rfl⟩ | ⟨-, -, rfl⟩ |
      ⟨hs, -, lge, hl, ⟨-, rfl⟩ | ⟨hc, -⟩⟩
    iterate 5 · exact absurd rfl hne
    · exact completedFrame_of_last hi hf hs hl hc

/-- At the last byte of a frame only a valid mirror request raises a fault, and only where the transmitter is busy. -/
theorem mirrorWhileBusy_of_fault {frame : List Byte} (hi : Invariant s) (hf : s.fault = false)
    (hfr : completedFrame d s = some frame) (h : exec (.rx d) s = .next t) (hne : t.fault ≠ s.fault) :
    validFrame frame ∧ mirrorWhileBusy s frame := by
  have hother {u : State} : exec (.rx d) s = .next u → u.fault ≠ s.fault := fault_ne_of_exec h hne
  have hv : validFrame frame := by
    by_contra hv
    exact hother (execRx_of_invalidFrame hi hf hfr hv) rfl
  have hc : classify (adrOf frame) s.cfgNode = .mirror := by
    by_contra hc
    exact hother (execRx_of_validFrame hi hf hfr hv hc) rfl
  exact ⟨hv, hc, fun hx => hother (execRx_of_mirrorFrame hi hf hfr hv hc hx) rfl⟩

theorem exists_raises_of_fault (hi : Invariant s) (hf : s.fault = false) (h : exec i s = .next t)
    (hne : t.fault ≠ s.fault) : ∃ c, Raises i s c := by
  have hother {u : State} : exec i s = .next u → u.fault ≠ s.fault := fault_ne_of_exec h hne
  cases i with
  | rx d =>
    obtain ⟨frame, hfr⟩ := exists_completedFrame_of_fault hi hf h hne
    exact ⟨.txBusy, rfl, frame, hfr, mirrorWhileBusy_of_fault hi hf hfr h hne⟩
  | start nd en =>
    refine ⟨.configInvalid, rfl, ?_⟩
    by_contra hok
    exact hother (execStart_latched nd en hf hok) (by split <;> rfl)
  | illegal w => exact ⟨.illegalEvent, rfl⟩
  | adrMirror b5 node =>
    rw [exec, execAdrMirror, unlessFaulted_live hf] at h
    rcases mirrorFrame_cases h with ⟨hx, -⟩ | ⟨hx, hm⟩
    · exact ⟨.txBusy, rfl, hx⟩
    · exact absurd (Transition.adrMirror (b5 := b5) (node := node) hx hm).fault hne
  | err k => exact (hother (execErr_live k hf) (by split_ifs <;> rfl)).elim
  | tick => exact absurd (Transition.tick ((execTick_live hf).symm.trans h)).fault hne
  | txdone => exact (hother (execTxdone_live hf) (by split <;> rfl)).elim
  | baud b => exact (hother (execBaud_live b hf) rfl).elim
  | stop => exact (hother (execStop_live hf) rfl).elim
  | adrSpecial low => exact absurd (fault_of_emitIfEnabled hf h) hne
  | adrBroadcast b6 node => exact absurd (fault_of_emitIfEnabled hf h) hne
  | adrStandard node => exact absurd (fault_of_emitIfEnabled hf h) hne
  | adrUnaddressed b6 node => exact (hother (unlessFaulted_live hf _) rfl).elim

end Sys2Proof.Machine

namespace Sys2Proof.Proofs

open Sys2Proof.Machine Sys2Proof.Safety

/-- Settles O42: each row of R109 raises its fault, and an instruction that ends in a fault meets its row. -/
theorem faultsAreRaisedExactlyAsListed : Obligations.FaultsAreRaisedExactlyAsListed :=
  fun _ _ hi hf => ⟨fun _ => exec_of_raises hi hf, fun _ h ht => exists_raises_of_fault hi hf h (by simp [ht, hf])⟩

/-- Settles O41: in the faulted state every rule ends at its first test, `if fault: return`, and `rst` takes the reset
values. -/
theorem faultIsAbsorbing : Obligations.FaultIsAbsorbing := by
  refine ⟨fun c s => ⟨rfl, rfl, rfl, rfl, statusWord_faultRecord (raiseFault c s)⟩, fun i s => exec_faulted i,
    fun s w rest hf hp => ?_, fun s rest hp => ⟨assertReset rest s, step_of_port_rst hp, rfl⟩⟩
  calc step s = exec (decodeEvent w) (beginStep rest s) := step_of_port_word hp
    _ = .next (beginStep rest s) := exec_faulted _ hf

end Sys2Proof.Proofs
end
